-- ==== Sys2Proof/Word.lean ====
section
/-! DEFINITION. The word types of the core (00_scope.md R6, R10): 8-bit data, 16-bit words and opcodes, 4-bit register
indices and 12-bit addresses, all unsigned. -/

namespace Sys2Proof

/-- A register or a memory cell: 8 bits (R6 `V_WIDTH`, R31). -/
abbrev Byte := BitVec 8

/-- `pc`, `I`, a stack entry or an opcode: 16 bits (R6 `PC_WIDTH`, `I_WIDTH`, `STACK_ENTRY_WIDTH`, `INSTR_WIDTH`). -/
abbrev Word := BitVec 16

/-- A register index `0..15` (R22: a model may take the index from a 16-element type; assumption log 13). -/
abbrev Reg := BitVec 4

/-- The 12-bit address field `nnn` (R71). -/
abbrev Addr := BitVec 12

/-- A 4-bit key code (R38). -/
abbrev KeyCode := BitVec 4

end Sys2Proof
end

