-- ==== Sys2Proof/Syntax.lean ====
section
/-! DEFINITION. The instructions of 30_encoding.md R73, one constructor per row of spec/opcode_table.json, in the
table's order, and the result of decoding an opcode (an instruction or `Invalid`). -/

namespace Sys2Proof

/-- The decoded instruction, carrying only the operand fields it needs (R73). -/
inductive Instr where
  /-- `00E0` (R140) -/
  | clearScreen
  /-- `00EE` (R132) -/
  | ret
  /-- `1nnn` (R130) -/
  | jump (nnn : Addr)
  /-- `2nnn` (R131) -/
  | call (nnn : Addr)
  /-- `3xkk` (R120) -/
  | skipEqualByte (x : Reg) (kk : Byte)
  /-- `4xkk` (R121) -/
  | skipNotEqualByte (x : Reg) (kk : Byte)
  /-- `5xy0` (R122) -/
  | skipEqualReg (x y : Reg)
  /-- `6xkk` (R102) -/
  | loadByte (x : Reg) (kk : Byte)
  /-- `7xkk` (R103) -/
  | addByte (x : Reg) (kk : Byte)
  /-- `8xy0` (R104) -/
  | loadReg (x y : Reg)
  /-- `8xy1` (R105) -/
  | or (x y : Reg)
  /-- `8xy2` (R106) -/
  | and (x y : Reg)
  /-- `8xy3` (R107) -/
  | xor (x y : Reg)
  /-- `8xy4` (R108) -/
  | addReg (x y : Reg)
  /-- `8xy5` (R109) -/
  | subReg (x y : Reg)
  /-- `8xy6` (R110); `y` is kept also where `SHIFT_SOURCE = vx` ignores it (R112) -/
  | shiftRight (x y : Reg)
  /-- `8xy7` (R111) -/
  | subN (x y : Reg)
  /-- `8xyE` (R113); `y` as in `shiftRight` -/
  | shiftLeft (x y : Reg)
  /-- `9xy0` (R123) -/
  | skipNotEqualReg (x y : Reg)
  /-- `Annn` (R165) -/
  | loadI (nnn : Addr)
  /-- `Bnnn` (R133) -/
  | jumpAdd (nnn : Addr)
  /-- `Cxkk` (R115) -/
  | random (x : Reg) (kk : Byte)
  /-- `Dxyn` (R141); the height is a count of rows, so that the size check of R146 can be stated -/
  | draw (x y : Reg) (n : Nat)
  /-- `Ex9E` (R124) -/
  | skipKey (x : Reg)
  /-- `ExA1` (R125) -/
  | skipNotKey (x : Reg)
  /-- `Fx07` (R158) -/
  | getDelay (x : Reg)
  /-- `Fx0A` (R156) -/
  | waitKey (x : Reg)
  /-- `Fx15` (R159) -/
  | setDelay (x : Reg)
  /-- `Fx18` (R160) -/
  | setSound (x : Reg)
  /-- `Fx1E` (R166) -/
  | addI (x : Reg)
  /-- `Fx29` (R144) -/
  | setISprite (x : Reg)
  /-- `Fx33` (R167) -/
  | storeBCD (x : Reg)
  /-- `Fx55` (R168) -/
  | storeRegI (x : Reg)
  /-- `Fx65` (R169) -/
  | loadRegI (x : Reg)
  deriving DecidableEq, Repr

/-- What an opcode decodes to: an instruction, or `Invalid` with the opcode kept for the error report (R73, D13).
Decoding to `invalid` is not itself an error (R76). -/
inductive Decoded where
  | valid (i : Instr)
  | invalid (op : Word)
  deriving DecidableEq, Repr

/-- The variant name of an instruction, as R73 and spec/opcode_table.json spell it. -/
def Instr.mnemonic : Instr → String
  | .clearScreen => "ClearScreen"
  | .ret => "Return"
  | .jump _ => "Jump"
  | .call _ => "Call"
  | .skipEqualByte _ _ => "SkipEqualByte"
  | .skipNotEqualByte _ _ => "SkipNotEqualByte"
  | .skipEqualReg _ _ => "SkipEqualReg"
  | .loadByte _ _ => "LoadByte"
  | .addByte _ _ => "AddByte"
  | .loadReg _ _ => "LoadReg"
  | .or _ _ => "Or"
  | .and _ _ => "And"
  | .xor _ _ => "Xor"
  | .addReg _ _ => "AddReg"
  | .subReg _ _ => "SubReg"
  | .shiftRight _ _ => "ShiftRight"
  | .subN _ _ => "SubN"
  | .shiftLeft _ _ => "ShiftLeft"
  | .skipNotEqualReg _ _ => "SkipNotEqualReg"
  | .loadI _ => "LoadI"
  | .jumpAdd _ => "JumpAdd"
  | .random _ _ => "Random"
  | .draw _ _ _ => "Draw"
  | .skipKey _ => "SkipKey"
  | .skipNotKey _ => "SkipNotKey"
  | .getDelay _ => "GetDelay"
  | .waitKey _ => "WaitKey"
  | .setDelay _ => "SetDelay"
  | .setSound _ => "SetSound"
  | .addI _ => "AddI"
  | .setISprite _ => "SetISprite"
  | .storeBCD _ => "StoreBCD"
  | .storeRegI _ => "StoreRegI"
  | .loadRegI _ => "LoadRegI"

end Sys2Proof
end

