-- ==== Sys2Proof/WellFormed.lean ====
section
/-! DEFINITION. Which instructions an opcode can encode. Register indices, immediate bytes and addresses are bounded by
their types; the one operand that needs a check is the sprite height (44_display.md R141, R146). -/

namespace Sys2Proof

/-- The size check of R146: a sprite has at most `MAX_SPRITE_ROWS` = 15 rows. -/
def Instr.wellFormed : Instr → Bool
  | .draw _ _ n => decide (n ≤ 15)
  | .clearScreen | .ret | .jump _ | .call _ => true
  | .skipEqualByte _ _ | .skipNotEqualByte _ _ | .skipEqualReg _ _ | .skipNotEqualReg _ _ => true
  | .loadByte _ _ | .addByte _ _ | .loadReg _ _ | .or _ _ | .and _ _ | .xor _ _ => true
  | .addReg _ _ | .subReg _ _ | .shiftRight _ _ | .subN _ _ | .shiftLeft _ _ => true
  | .loadI _ | .jumpAdd _ | .random _ _ => true
  | .skipKey _ | .skipNotKey _ | .getDelay _ | .waitKey _ | .setDelay _ | .setSound _ => true
  | .addI _ | .setISprite _ | .storeBCD _ | .storeRegI _ | .loadRegI _ => true

/-- An instruction that some opcode encodes. -/
abbrev Instr.WellFormed (i : Instr) : Prop := i.wellFormed = true

end Sys2Proof
end

