-- ==== Sys2Proof/Decode.lean ====
section
/-! DEFINITION. Opcode to instruction (30_encoding.md R70 to R81) and back. All bit patterns rest on the spec's
decision D1 (assumption log 12). -/

namespace Sys2Proof

/-! ## Fields (R12, R71, R72) -/

/-- The family nibble `op[15:12]`. -/
def opFamily (op : Word) : BitVec 4 := op.extractLsb' 12 4

/-- `x = op[11:8]`. -/
def opX (op : Word) : Reg := op.extractLsb' 8 4

/-- `y = op[7:4]`. -/
def opY (op : Word) : Reg := op.extractLsb' 4 4

/-- `n = op[3:0]`. -/
def opN (op : Word) : BitVec 4 := op.extractLsb' 0 4

/-- `kk = op[7:0]`. -/
def opKK (op : Word) : Byte := op.extractLsb' 0 8

/-- `nnn = op[11:0]`. -/
def opNNN (op : Word) : Addr := op.extractLsb' 0 12

/-! ## The decoder (R74) -/

/-- Family `0`: all 16 bits are fixed (R78). -/
def decode0 (op : Word) : Decoded :=
  if op = 0x00E0#16 then .valid .clearScreen
  else if op = 0x00EE#16 then .valid .ret
  else .invalid op

/-- Family `8`, dispatched on the low nibble. -/
def decode8 (op : Word) : Decoded :=
  match opN op with
  | 0x0#4 => .valid (.loadReg (opX op) (opY op))
  | 0x1#4 => .valid (.or (opX op) (opY op))
  | 0x2#4 => .valid (.and (opX op) (opY op))
  | 0x3#4 => .valid (.xor (opX op) (opY op))
  | 0x4#4 => .valid (.addReg (opX op) (opY op))
  | 0x5#4 => .valid (.subReg (opX op) (opY op))
  | 0x6#4 => .valid (.shiftRight (opX op) (opY op))
  | 0x7#4 => .valid (.subN (opX op) (opY op))
  | 0xE#4 => .valid (.shiftLeft (opX op) (opY op))
  | _ => .invalid op

/-- Family `E`, dispatched on the low byte. -/
def decodeE (op : Word) : Decoded :=
  match opKK op with
  | 0x9E#8 => .valid (.skipKey (opX op))
  | 0xA1#8 => .valid (.skipNotKey (opX op))
  | _ => .invalid op

/-- Family `F`, dispatched on the low byte. -/
def decodeF (op : Word) : Decoded :=
  match opKK op with
  | 0x07#8 => .valid (.getDelay (opX op))
  | 0x0A#8 => .valid (.waitKey (opX op))
  | 0x15#8 => .valid (.setDelay (opX op))
  | 0x18#8 => .valid (.setSound (opX op))
  | 0x1E#8 => .valid (.addI (opX op))
  | 0x29#8 => .valid (.setISprite (opX op))
  | 0x33#8 => .valid (.storeBCD (opX op))
  | 0x55#8 => .valid (.storeRegI (opX op))
  | 0x65#8 => .valid (.loadRegI (opX op))
  | _ => .invalid op

/-- `decode` of R74: a pure total function of the opcode, dispatching on the family nibble first. -/
def decode (op : Word) : Decoded :=
  match opFamily op with
  | 0x0#4 => decode0 op
  | 0x1#4 => .valid (.jump (opNNN op))
  | 0x2#4 => .valid (.call (opNNN op))
  | 0x3#4 => .valid (.skipEqualByte (opX op) (opKK op))
  | 0x4#4 => .valid (.skipNotEqualByte (opX op) (opKK op))
  | 0x5#4 => if opN op = 0#4 then .valid (.skipEqualReg (opX op) (opY op)) else .invalid op
  | 0x6#4 => .valid (.loadByte (opX op) (opKK op))
  | 0x7#4 => .valid (.addByte (opX op) (opKK op))
  | 0x8#4 => decode8 op
  | 0x9#4 => if opN op = 0#4 then .valid (.skipNotEqualReg (opX op) (opY op)) else .invalid op
  | 0xA#4 => .valid (.loadI (opNNN op))
  | 0xB#4 => .valid (.jumpAdd (opNNN op))
  | 0xC#4 => .valid (.random (opX op) (opKK op))
  | 0xD#4 => .valid (.draw (opX op) (opY op) (opN op).toNat)
  | 0xE#4 => decodeE op
  | _ => decodeF op

/-- The opcode held by two consecutive bytes, the first one being `op[15:8]` (R51, R70). -/
def opcodeOfBytes (hi lo : Byte) : Word := hi ++ lo

/-- The byte of an opcode at the lower address. -/
def opcodeHi (op : Word) : Byte := op.extractLsb' 8 8

/-- The byte of an opcode at the higher address. -/
def opcodeLo (op : Word) : Byte := op.extractLsb' 0 8

/-! ## The encoder -/

/-- Format `NNN` of R71. -/
def encodeNNN (family : BitVec 4) (nnn : Addr) : Word := family ++ nnn

/-- Format `XKK` of R71. -/
def encodeXKK (family : BitVec 4) (x : Reg) (kk : Byte) : Word := family ++ x ++ kk

/-- Formats `XY` (sub-opcode in the low nibble) and `XYN` of R71. -/
def encodeXYN (family : BitVec 4) (x y : Reg) (n : BitVec 4) : Word := family ++ x ++ y ++ n

/-- Format `X` of R71: the sub-opcode is the low byte. -/
def encodeX (family : BitVec 4) (x : Reg) (sub : Byte) : Word := family ++ x ++ sub

/-- The opcode of a well-formed instruction, from the patterns of R75. -/
def encode : Instr → Word
  | .clearScreen => 0x00E0#16
  | .ret => 0x00EE#16
  | .jump nnn => encodeNNN 0x1#4 nnn
  | .call nnn => encodeNNN 0x2#4 nnn
  | .skipEqualByte x kk => encodeXKK 0x3#4 x kk
  | .skipNotEqualByte x kk => encodeXKK 0x4#4 x kk
  | .skipEqualReg x y => encodeXYN 0x5#4 x y 0x0#4
  | .loadByte x kk => encodeXKK 0x6#4 x kk
  | .addByte x kk => encodeXKK 0x7#4 x kk
  | .loadReg x y => encodeXYN 0x8#4 x y 0x0#4
  | .or x y => encodeXYN 0x8#4 x y 0x1#4
  | .and x y => encodeXYN 0x8#4 x y 0x2#4
  | .xor x y => encodeXYN 0x8#4 x y 0x3#4
  | .addReg x y => encodeXYN 0x8#4 x y 0x4#4
  | .subReg x y => encodeXYN 0x8#4 x y 0x5#4
  | .shiftRight x y => encodeXYN 0x8#4 x y 0x6#4
  | .subN x y => encodeXYN 0x8#4 x y 0x7#4
  | .shiftLeft x y => encodeXYN 0x8#4 x y 0xE#4
  | .skipNotEqualReg x y => encodeXYN 0x9#4 x y 0x0#4
  | .loadI nnn => encodeNNN 0xA#4 nnn
  | .jumpAdd nnn => encodeNNN 0xB#4 nnn
  | .random x kk => encodeXKK 0xC#4 x kk
  | .draw x y n => encodeXYN 0xD#4 x y (BitVec.ofNat 4 n)
  | .skipKey x => encodeX 0xE#4 x 0x9E#8
  | .skipNotKey x => encodeX 0xE#4 x 0xA1#8
  | .getDelay x => encodeX 0xF#4 x 0x07#8
  | .waitKey x => encodeX 0xF#4 x 0x0A#8
  | .setDelay x => encodeX 0xF#4 x 0x15#8
  | .setSound x => encodeX 0xF#4 x 0x18#8
  | .addI x => encodeX 0xF#4 x 0x1E#8
  | .setISprite x => encodeX 0xF#4 x 0x29#8
  | .storeBCD x => encodeX 0xF#4 x 0x33#8
  | .storeRegI x => encodeX 0xF#4 x 0x55#8
  | .loadRegI x => encodeX 0xF#4 x 0x65#8

/-! ## The opcode map (R75) -/

/-- One row of R75: an opcode selects it iff `op AND mask = bits` (`bits` is the column `match`). -/
structure OpcodeRow where
  variant : String
  bits : Word
  mask : Word
  deriving DecidableEq, Repr

/-- The rows of R75 whose family fixes only the high nibble. -/
def opcodeRowsWide : List OpcodeRow :=
  [⟨"Jump", 0x1000#16, 0xF000#16⟩, ⟨"Call", 0x2000#16, 0xF000#16⟩, ⟨"SkipEqualByte", 0x3000#16, 0xF000#16⟩,
   ⟨"SkipNotEqualByte", 0x4000#16, 0xF000#16⟩, ⟨"LoadByte", 0x6000#16, 0xF000#16⟩, ⟨"AddByte", 0x7000#16, 0xF000#16⟩,
   ⟨"LoadI", 0xA000#16, 0xF000#16⟩, ⟨"JumpAdd", 0xB000#16, 0xF000#16⟩, ⟨"Random", 0xC000#16, 0xF000#16⟩,
   ⟨"Draw", 0xD000#16, 0xF000#16⟩]

/-- The rows of R75 that also fix the low nibble. -/
def opcodeRowsNibble : List OpcodeRow :=
  [⟨"SkipEqualReg", 0x5000#16, 0xF00F#16⟩, ⟨"LoadReg", 0x8000#16, 0xF00F#16⟩, ⟨"Or", 0x8001#16, 0xF00F#16⟩,
   ⟨"And", 0x8002#16, 0xF00F#16⟩, ⟨"Xor", 0x8003#16, 0xF00F#16⟩, ⟨"AddReg", 0x8004#16, 0xF00F#16⟩,
   ⟨"SubReg", 0x8005#16, 0xF00F#16⟩, ⟨"ShiftRight", 0x8006#16, 0xF00F#16⟩, ⟨"SubN", 0x8007#16, 0xF00F#16⟩,
   ⟨"ShiftLeft", 0x800E#16, 0xF00F#16⟩, ⟨"SkipNotEqualReg", 0x9000#16, 0xF00F#16⟩]

/-- The rows of R75 that also fix the low byte, and the two that fix every bit. -/
def opcodeRowsByte : List OpcodeRow :=
  [⟨"ClearScreen", 0x00E0#16, 0xFFFF#16⟩, ⟨"Return", 0x00EE#16, 0xFFFF#16⟩, ⟨"SkipKey", 0xE09E#16, 0xF0FF#16⟩,
   ⟨"SkipNotKey", 0xE0A1#16, 0xF0FF#16⟩, ⟨"GetDelay", 0xF007#16, 0xF0FF#16⟩, ⟨"WaitKey", 0xF00A#16, 0xF0FF#16⟩,
   ⟨"SetDelay", 0xF015#16, 0xF0FF#16⟩, ⟨"SetSound", 0xF018#16, 0xF0FF#16⟩, ⟨"AddI", 0xF01E#16, 0xF0FF#16⟩,
   ⟨"SetISprite", 0xF029#16, 0xF0FF#16⟩, ⟨"StoreBCD", 0xF033#16, 0xF0FF#16⟩, ⟨"StoreRegI", 0xF055#16, 0xF0FF#16⟩,
   ⟨"LoadRegI", 0xF065#16, 0xF0FF#16⟩]

/-- The 34 rows of R75. -/
def opcodeMap : List OpcodeRow := opcodeRowsWide ++ opcodeRowsNibble ++ opcodeRowsByte

/-- Whether an opcode selects a row (R75). -/
def OpcodeRow.selects (r : OpcodeRow) (op : Word) : Bool := op &&& r.mask == r.bits

/-! ## Words of the opcode table -/

/-- The opcode of a table word of `nbits` bits: one 16-bit word, bits above `nbits` zero. -/
def tableOpcode (nbits w : Nat) : Word := BitVec.ofNat 16 (w % 2 ^ nbits)

/-- The instruction the decoder reads from a table word, laid out as its two bytes (R51). -/
def decodeTableWord (nbits w : Nat) : Option Instr :=
  match decode (opcodeOfBytes (opcodeHi (tableOpcode nbits w)) (opcodeLo (tableOpcode nbits w))) with
  | .valid i => some i
  | .invalid _ => none

end Sys2Proof
end

