-- ==== Sys2Proof/Config.lean ====
section
/-! DEFINITION. What an implementation fixes (the open parameters of 00_scope.md R6, as types; the values the spec
chooses stand in Machine/Parameters.lean) and the free values, which nothing in Lean can evaluate. -/

namespace Sys2Proof.Config

/-- `FLAG_ORDER` (R101, D6): which write survives when the destination of a flag-writing instruction is VF. -/
inductive FlagOrder where
  | flagLast
  | resultLast
  deriving DecidableEq, Repr

/-- `SHIFT_SOURCE` (R112, D8): the register a shift reads. -/
inductive ShiftSource where
  | vx
  | vy
  deriving DecidableEq, Repr

/-- `SHIFT_VF_CLEAR` (R112, D9): what VF becomes when the tested bit is 0. -/
inductive ShiftVfClear where
  | zero
  | unchanged
  deriving DecidableEq, Repr

/-- `ADDBYTE_VF_NOCARRY` (R103, D5): what VF becomes when AddByte does not carry. -/
inductive AddByteVfNoCarry where
  | any
  | unchanged
  | zero
  deriving DecidableEq, Repr

/-- The decided parameters of R6. -/
structure Params where
  /-- `FLAG_ORDER` -/
  flagOrder : FlagOrder
  /-- `SHIFT_SOURCE` -/
  shiftSource : ShiftSource
  /-- `SHIFT_VF_CLEAR` -/
  shiftVfClear : ShiftVfClear
  /-- `ADDBYTE_VF_NOCARRY` -/
  addByteVfNoCarry : AddByteVfNoCarry
  /-- `STACK_DEPTH` -/
  stackDepth : Nat
  /-- `FONT` -/
  font : List Byte
  deriving DecidableEq, Repr

/-- The free byte of a draw (`draw8()`, R11, R115, D17, and VF after a non-carrying AddByte, R103, D5), as a function
of the number of free draws made before it. No body: nothing constrains it (assumption log 2). -/
opaque freeByte : Nat → Byte

/-- The key level the host supplies to a step (R38, D23), as a function of the number of steps before it. No body:
nothing constrains it (assumption log 1). -/
opaque hostKey : Nat → Option KeyCode

end Sys2Proof.Config
end

