-- ==== Sys2Proof/Machine/Parameters.lean ====
section
/-! DEFINITION. The values of the parameters of 00_scope.md R6: those the source gives, and the spec's decided
defaults for the open ones (assumption logs 7, 8, 9). -/

namespace Sys2Proof.Machine

/-- `PROG_ORIGIN`: where a ROM is copied and where `pc` starts (R6, R42, R212). -/
abbrev progOrigin : Nat := 0x200

/-- `FETCH_LIMIT`: a fetch is legal iff `PROG_ORIGIN <= pc < FETCH_LIMIT` (R54). -/
abbrev fetchLimit : Nat := 0xFFF

/-- The index of the last memory cell, the slack byte; `MEM_SIZE` is 4097 (R31, R55, conflict C2). -/
abbrev memLast : Nat := 0x1000

/-- `ROM_MAX` (R211, conflict C3). -/
abbrev romMax : Nat := 0xDFF

/-- `MAX_SPRITE_ROWS` (R141, R146). -/
abbrev maxSpriteRows : Nat := 15

/-- `GLYPH_SIZE` (R32). -/
abbrev glyphSize : Nat := 5

/-- `NUM_V` (R21). -/
abbrev numV : Nat := 16

/-- Digits 0 to 7 of the font table (R33, D18). -/
def fontLow : List Byte :=
  [0xF0, 0x90, 0x90, 0x90, 0xF0,  0x20, 0x60, 0x20, 0x20, 0x70,
   0xF0, 0x10, 0xF0, 0x80, 0xF0,  0xF0, 0x10, 0xF0, 0x10, 0xF0,
   0x90, 0x90, 0xF0, 0x10, 0x10,  0xF0, 0x80, 0xF0, 0x10, 0xF0,
   0xF0, 0x80, 0xF0, 0x90, 0xF0,  0xF0, 0x10, 0x20, 0x40, 0x40]

/-- Digits 8 to F of the font table (R33, D18). -/
def fontHigh : List Byte :=
  [0xF0, 0x90, 0xF0, 0x90, 0xF0,  0xF0, 0x90, 0xF0, 0x10, 0xF0,
   0xF0, 0x90, 0xF0, 0x90, 0x90,  0xE0, 0x90, 0xE0, 0x90, 0xE0,
   0xF0, 0x80, 0x80, 0x80, 0xF0,  0xE0, 0x90, 0x90, 0x90, 0xE0,
   0xF0, 0x80, 0xF0, 0x80, 0xF0,  0xF0, 0x80, 0xF0, 0x80, 0x80]

/-- The parameters at the defaults of R6. -/
def params : Config.Params where
  flagOrder := .flagLast
  shiftSource := .vx
  shiftVfClear := .zero
  addByteVfNoCarry := .any
  stackDepth := 16
  font := fontLow ++ fontHigh

/-- What a cell holds after construction, and so what an unlisted address of memory reads as: the glyph bytes at
`0x000..0x04F`, zero elsewhere (R32, R33, R41, R210). -/
def initialByte (a : Nat) : Byte := params.font.getD a 0

end Sys2Proof.Machine
end

