-- ==== Sys2Proof/Machine/State.lean ====
section
/-! DEFINITION. The state of the core (10_state.md R20), the errors it raises (60_exceptions.md R180), the reasons a
step can stop, and the state after construction (70_reset_and_hazards.md R210). -/

namespace Sys2Proof.Machine

/-- Memory as the cells that differ from their contents after construction, addresses strictly rising (R31;
`Memory.wf` in Machine/Ops.lean is the canonical form). -/
abbrev Memory := List Host.Cell

/-- A placed sprite (R36): its bytes, row 0 first, its origin and its vertical extent. Coordinates are unbounded
(D16: no addition wraps; assumption log 15). -/
structure Sprite where
  bytes : List Byte
  x : Nat
  y : Nat
  yEnd : Nat
  deriving DecidableEq, Repr

/-- A rectangle in display coordinates (R37). -/
structure Rect where
  x : Nat
  y : Nat
  w : Nat
  h : Nat
  deriving DecidableEq, Repr

/-- The display directive of a step (R95). -/
inductive Directive where
  /-- `None` -/
  | none
  /-- `Clear` -/
  | clear
  /-- `Draw(rects)` -/
  | draw (rects : List Rect)
  deriving DecidableEq, Repr

/-- The errors of R180, each with the information it records. -/
inductive Error where
  /-- code 1, raised by `load` (R189, R211): ROM length minus `0xDFF` -/
  | romTooLarge (overage : Nat)
  /-- code 2, raised by the host's file reader and by nothing in the model (R5, R180): host-defined information -/
  | ioFailure (info : Nat)
  /-- code 3, raised by fetch (R182) and by Return on an empty stack (R183): the value of `pc` at the time -/
  | addressOutOfBounds (pc : Word)
  /-- code 4, raised by executing `Invalid` (R184): the opcode -/
  | invalidInstruction (op : Word)
  /-- code 5, raised by the register gate for an index above 15 (R22, R185): the index; no decoded opcode reaches it -/
  | invalidRegister (index : Nat)
  /-- code 6, raised by Draw for a height above 15 (R146, R186): the height; no decoded opcode reaches it -/
  | invalidSpriteSize (size : Nat)
  /-- code 7, raised by Draw, StoreBCD, StoreRegI and LoadRegI (R187): the lowest offending address -/
  | memoryOutOfRange (addr : Nat)
  /-- code 8, raised by Call on a full stack (R188): the post-fetch `pc` -/
  | stackOverflow (pc : Word)
  deriving DecidableEq, Repr

/-- The state of the core (R20). The last five fields are the model's own: the inputs and the output of a step, and
the counters that the free values are applied to (R8, R96; assumption logs 1, 2, 3). -/
structure State where
  /-- `V[0]..V[15]` (R21); `V[15]` is VF (R23) -/
  V : Vector Byte 16
  /-- the index register (R29) -/
  I : Word
  /-- the program counter (R24) -/
  pc : Word
  /-- the informational stack counter (R26) -/
  sp : Byte
  /-- the return addresses, oldest first: the last entry is the top (R27, R28) -/
  stack : List Word
  /-- the delay timer (R30) -/
  DT : Byte
  /-- the sound timer (R30) -/
  ST : Byte
  /-- the memory array (R31) -/
  mem : Memory
  /-- the sprites placed since the last clear, oldest first (R34) -/
  sprites : List Sprite
  /-- a load has succeeded (R39) -/
  ready : Bool
  /-- an error was raised (R40) -/
  halted : Bool
  /-- the key levels already decided for the coming steps, this step's first (R38, R96) -/
  keyInputs : List (Option KeyCode)
  /-- how many steps have been taken: the argument of the free key level -/
  keyCount : Nat
  /-- the bytes already decided for the coming draws, the next one first (R11 `draw8()`, R96 `rnd`) -/
  rndInputs : List Byte
  /-- how many free draws have been made: the argument of the free byte -/
  drawCount : Nat
  /-- the directive the last step returned (R95) -/
  directive : Directive
  deriving DecidableEq, Repr

/-- Why a step stops. -/
inductive Fault where
  /-- A step raised an error (R180, R190): the error, and the state R181 says it leaves, with `halted` set. Raised by
  the fetch bound check, by an `Invalid` opcode, and by Return, Call, Draw, StoreBCD, StoreRegI and LoadRegI where
  their rules say so. Safe: the spec ends the run there (R201). -/
  | error (e : Error) (left : State)
  /-- A step before the first successful load (R39, R215). Raised by `step`. Safe: the core has no transition there. -/
  | notReady
  /-- A step after an error (R40, R191). Raised by `step`. Safe: the core has no transition there. -/
  | halted
  deriving DecidableEq, Repr

/-- Why an instruction has no meaning. -/
inductive Refusal where
  /-- An instruction the model gives no meaning, by its mnemonic. Raised by no arm of `exec`: every instruction has
  its meaning. Safe: a run stops there. -/
  | notModelled (mnemonic : String)
  deriving DecidableEq, Repr

/-- What a step of this core answers. -/
abbrev Outcome := Host.Outcome State Fault Refusal

/-- The state after construction (R210): glyphs in memory, everything else zero or empty, not ready. The value of `pc`
before the first load is the model's choice (assumption log 5), the zeros are the spec's decision D12 (log 6). -/
def State.reset : State where
  V := Vector.replicate 16 0
  I := 0
  pc := 0x200
  sp := 0
  stack := []
  DT := 0
  ST := 0
  mem := []
  sprites := []
  ready := false
  halted := false
  keyInputs := []
  keyCount := 0
  rndInputs := []
  drawCount := 0
  directive := .none

end Sys2Proof.Machine
end

