-- ==== Sys2Proof/Machine/Ops.lean ====
section
/-! DEFINITION. The named operations over memory, registers, the stack, the inputs and the errors, which every meaning
is written over. -/

namespace Sys2Proof.Machine

/-! ## Memory cells (20_memory.md R50 to R57) -/

/-- The byte in a cell: the listed one, or its contents after construction. -/
def Memory.read : Memory → Nat → Byte
  | [], a => initialByte a
  | (b, v) :: m, a => if a = b then v else Memory.read m a

/-- Store a byte in a cell, keeping the canonical form: a cell that gets back its contents after construction is
listed no more. -/
def Memory.write : Memory → Nat → Byte → Memory
  | [], a, v => if v = initialByte a then [] else [(a, v)]
  | (b, w) :: m, a, v =>
    if a < b then
      if v = initialByte a then (b, w) :: m else (a, v) :: (b, w) :: m
    else if a = b then
      if v = initialByte a then m else (a, v) :: m
    else (b, w) :: Memory.write m a v

/-- The canonical form, for cells at `lo` or above: addresses strictly rising and inside the array, no cell listed
with its contents after construction. -/
def Memory.wfFrom : Nat → Memory → Bool
  | _, [] => true
  | lo, (a, v) :: m => decide (lo ≤ a) && decide (a ≤ memLast) && decide (v ≠ initialByte a) && Memory.wfFrom (a + 1) m

/-- The canonical form of memory. -/
def Memory.wf (m : Memory) : Bool := Memory.wfFrom 0 m

/-- `n` bytes from ascending addresses (R52). -/
def Memory.readBytes (m : Memory) (base n : Nat) : List Byte := (List.range n).map fun k => m.read (base + k)

/-- Bytes to ascending addresses (R52). -/
def Memory.writeBytes : Memory → Nat → List Byte → Memory
  | m, _, [] => m
  | m, a, b :: bs => Memory.writeBytes (m.write a b) (a + 1) bs

/-! ## Errors (60_exceptions.md) -/

/-- The numeric code of an error (R180, D13). -/
def Error.code : Error → Nat
  | .romTooLarge _ => 1
  | .ioFailure _ => 2
  | .addressOutOfBounds _ => 3
  | .invalidInstruction _ => 4
  | .invalidRegister _ => 5
  | .invalidSpriteSize _ => 6
  | .memoryOutOfRange _ => 7
  | .stackOverflow _ => 8

/-- The information an error records (R180). -/
def Error.info : Error → Nat
  | .romTooLarge n | .ioFailure n | .invalidRegister n | .invalidSpriteSize n | .memoryOutOfRange n => n
  | .addressOutOfBounds w | .invalidInstruction w | .stackOverflow w => w.toNat

/-- Error entry (R190): the failing operation has no effect of its own (R181), `halted` is set, and the error is
returned in place of a directive. -/
def raise (e : Error) (s : State) : Outcome :=
  .fault (.error e { s with halted := true, directive := .none })

/-- The lowest address of `base .. base + n - 1` that no cell has (R55). Addresses are unbounded naturals. -/
def firstOutOfRange (base n : Nat) : Option Nat :=
  ((List.range n).map (base + ·)).find? fun a => decide (memLast < a)

/-- The bounds check of a data access of `n` cells from `base`, made before any effect (R55). -/
def withCells (s : State) (base n : Nat) (body : Outcome) : Outcome :=
  match firstOutOfRange base n with
  | some a => raise (.memoryOutOfRange a) s
  | none => body

/-! ## Registers (10_state.md R21 to R23) -/

/-- `V[x]`. -/
def State.reg (s : State) (x : Reg) : Byte := s.V[x.toNat]'x.isLt

/-- `V[x] <- b`. -/
def State.setReg (s : State) (x : Reg) (b : Byte) : State := { s with V := s.V.set x.toNat b x.isLt }

/-- The index of VF (R23). -/
def vf : Reg := 15#4

/-- The bounds-checked register read of R22, by an unbounded index. -/
def State.getV (s : State) (i : Nat) : Except Error Byte :=
  if i < numV then .ok (s.reg (BitVec.ofNat 4 i)) else .error (.invalidRegister i)

/-- The bounds-checked register write of R22, by an unbounded index. -/
def State.putV (s : State) (i : Nat) (b : Byte) : Except Error State :=
  if i < numV then .ok (s.setReg (BitVec.ofNat 4 i) b) else .error (.invalidRegister i)

/-- The values of the first `n` registers, register 0 first. -/
def State.regs (s : State) (n : Nat) : List Byte := (List.range n).map fun k => s.reg (BitVec.ofNat 4 k)

/-- `V[k] <- MemRead(base + k, 1)` for `k` in `0 .. n - 1`, ascending (R169). -/
def State.loadRegs (s : State) (base : Nat) : Nat → State
  | 0 => s
  | k + 1 => (s.loadRegs base k).setReg (BitVec.ofNat 4 k) (s.mem.read (base + k))

/-- `pc <- target`. -/
def State.setPc (s : State) (target : Word) : State := { s with pc := target }

/-! ## The call stack (R26 to R28) -/

/-- `push(v)`: nothing when `depth` entries are held. -/
def State.push (s : State) (depth : Nat) (v : Word) : Except Error State :=
  if s.stack.length < depth then .ok { s with stack := s.stack ++ [v], sp := s.sp + 1 }
  else .error (.stackOverflow s.pc)

/-- `pop()`: the top entry and the state without it. -/
def State.pop (s : State) : Except Error (Word × State) :=
  match s.stack.getLast? with
  | some v => .ok (v, { s with stack := s.stack.dropLast, sp := s.sp - 1 })
  | none => .error (.addressOutOfBounds s.pc)

/-! ## Inputs (R11, R38, R96) -/

/-- `key`: the key level of this step, the host's decided one or a free one. -/
def State.key (s : State) : Option KeyCode :=
  match s.keyInputs with
  | k :: _ => k
  | [] => Config.hostKey s.keyCount

/-- The inputs of the next step. -/
def State.nextKey (s : State) : State := { s with keyInputs := s.keyInputs.tail, keyCount := s.keyCount + 1 }

/-- `draw8()`: the host's decided byte or a free one. -/
def State.draw8 (s : State) : Byte :=
  match s.rndInputs with
  | b :: _ => b
  | [] => Config.freeByte s.drawCount

/-- The state after a draw: a different draw is next (R11). -/
def State.afterDraw (s : State) : State :=
  match s.rndInputs with
  | _ :: bs => { s with rndInputs := bs }
  | [] => { s with drawCount := s.drawCount + 1 }

/-! ## Load (70_reset_and_hazards.md R211 to R213) -/

/-- The host's load operation, between steps: a too large ROM is rejected and changes nothing; otherwise the ROM is
copied to `0x200`, `pc` is reset and the core is ready. Nothing else is written, also on a core that has run. -/
def State.load (rom : List Byte) (s : State) : Except Error State :=
  if rom.length > romMax then .error (.romTooLarge (rom.length - romMax))
  else .ok { s with mem := s.mem.writeBytes progOrigin rom, pc := BitVec.ofNat 16 progOrigin, ready := true }

end Sys2Proof.Machine
end

