-- ==== Sys2Proof/Machine/Cycle.lean ====
section
/-! DEFINITION. The frame every instruction runs in (40_step_cycle.md R90 to R93): the enabling condition, fetch, the
timer tick, the inputs of the next step, and the placing of an opcode where the next step fetches. -/

namespace Sys2Proof.Machine

/-- `require ready = 1 and halted = 0` (R90): why the core has no step transition, if it has none (R40, R215). -/
def stepBlocked (s : State) : Option Fault :=
  if s.halted then some .halted
  else if s.ready then none
  else some .notReady

/-- A fetch is legal iff `0x200 <= pc < 0xFFF` (R54, R91). -/
def fetchable (pc : Word) : Bool := decide (progOrigin ≤ pc.toNat) && decide (pc.toNat < fetchLimit)

/-- The big-endian opcode at an address (R51). -/
def opcodeAt (m : Memory) (a : Nat) : Word := opcodeOfBytes (m.read a) (m.read (a + 1))

/-- Phase 1 (R91): the bounds check, the opcode, and `pc` past it. -/
def fetch (s : State) : Except Error (Word × State) :=
  if fetchable s.pc then .ok (opcodeAt s.mem s.pc.toNat, s.setPc (s.pc + 2))
  else .error (.addressOutOfBounds s.pc)

/-- One tick of a timer: down to 0 and no further (R30, R93). -/
def tickTimer (t : Byte) : Byte := if t = 0 then 0 else t - 1

/-- Phase 3 (R93), and the directive at the beginning of phase 4 (R90). -/
def beginExecute (s : State) : State :=
  { s with DT := tickTimer s.DT, ST := tickTimer s.ST, directive := .none }

/-- The end of a step that raised no error: the inputs of the next step are the host's next ones (R38). -/
def endStep (o : Outcome) : Outcome :=
  match o with
  | .next s => .next s.nextKey
  | .fault r => .fault r
  | .refused r => .refused r

/-- The two bytes of an opcode stored at an address (R51). -/
def placeOpcode (m : Memory) (a : Nat) (op : Word) : Memory := m.writeBytes a [opcodeHi op, opcodeLo op]

/-- Where `step` can fetch: the given `pc` if a fetch there is legal, otherwise the entry point. -/
def fetchPoint (pc : Word) : Word := if fetchable pc then pc else BitVec.ofNat 16 progOrigin

/-- The core ready to step at a legal `pc`. -/
def enableStep (s : State) : State := { s with ready := true, halted := false, pc := fetchPoint s.pc }

end Sys2Proof.Machine
end

