-- ==== Sys2Proof/Machine/Flags.lean ====
section
/-! DEFINITION. The exact results and the flags of the arithmetic and shift instructions, and the order in which they
are written (41_arithmetic_logic.md R101, R112, R114). Each operation takes the open parameter it depends on. -/

namespace Sys2Proof.Machine

/-- The unbounded sum (R114). -/
abbrev sumOf (a b : Byte) : Nat := a.toNat + b.toNat

/-- The carry flag: 1 iff the unbounded sum exceeds 255 (R114). -/
def carryFlag (a b : Byte) : Byte := if sumOf a b > 255 then 1 else 0

/-- `(a - b) mod 256` (R114). -/
def differenceOf (a b : Byte) : Byte := BitVec.ofNat 8 (a.toNat + 256 - b.toNat)

/-- The borrow flag of `a - b`: 1 iff `a < b` (R109, R114). -/
def borrowFlag (a b : Byte) : Byte := if a.toNat < b.toNat then 1 else 0

/-- The low bit test of ShiftRight, in its single-bit form (R110, conflict C4). -/
def lowBitFlag (v : Byte) : Byte := if v.getLsbD 0 then 1 else 0

/-- The high bit test of ShiftLeft, in its single-bit form (R113, conflict C4). -/
def highBitFlag (v : Byte) : Byte := if v.getLsbD 7 then 1 else 0

/-- `s >> 1`, zero fill (R110). -/
def shiftedRight (v : Byte) : Byte := BitVec.ofNat 8 (v.toNat / 2)

/-- `(s << 1) mod 256` (R113). -/
def shiftedLeft (v : Byte) : Byte := BitVec.ofNat 8 (v.toNat * 2)

/-- `writeback(x, result, flag)` of R101: with `x = 15` the later write survives. -/
def writeback (order : Config.FlagOrder) (x : Reg) (result flag : Byte) (s : State) : State :=
  match order with
  | .flagLast => (s.setReg x result).setReg vf flag
  | .resultLast => (s.setReg vf flag).setReg x result

/-- The write of a shift: the flag is written when the tested bit was 1, or when `SHIFT_VF_CLEAR` says zero (R110, R112). -/
def shiftWriteback (p : Config.Params) (x : Reg) (result flag : Byte) (s : State) : State :=
  if flag = 1 ∨ p.shiftVfClear = .zero then writeback p.flagOrder x result flag s
  else s.setReg x result

/-- The write of AddByte when the sum does not carry (R103). -/
def addByteNoCarry (p : Config.Params) (x : Reg) (result : Byte) (s : State) : State :=
  match p.addByteVfNoCarry with
  | .any => writeback p.flagOrder x result s.draw8 s.afterDraw
  | .unchanged => s.setReg x result
  | .zero => writeback p.flagOrder x result 0 s

end Sys2Proof.Machine
end

