-- ==== Sys2Proof/Machine/Operands.lean ====
section
/-! DEFINITION. The operand forms: addresses, the effective addresses of data accesses, the shifted register, the key
comparison and the glyph lookup. -/

namespace Sys2Proof.Machine

/-- `zext_16(nnn)` (R72). -/
def addrOf (nnn : Addr) : Word := nnn.setWidth 16

/-- `nnn + V[0]`, kept in full (R133, D15). -/
def State.jumpAddTarget (s : State) (nnn : Addr) : Word := addrOf nnn + (s.reg 0).setWidth 16

/-- The base of the one addressing mode: every data access is at `I + k`, an unbounded natural (R170). -/
abbrev State.base (s : State) : Nat := s.I.toNat

/-- The value a shift reads (R112). -/
def State.shiftOperand (s : State) (source : Config.ShiftSource) (x y : Reg) : Byte :=
  match source with
  | .vx => s.reg x
  | .vy => s.reg y

/-- Whether the key held in this step has the code in `V[x]`: the whole byte is compared, `none` equals nothing (R124). -/
def State.keyMatches (s : State) (x : Reg) : Bool :=
  match s.key with
  | some k => decide (k.setWidth 8 = s.reg x)
  | none => false

/-- `glyph_addr(d) = 5 * d` for a digit, nothing for a value above 15 (R32, R144). -/
def glyphAddr (d : Byte) : Option Word :=
  if d.toNat ≤ 15 then some (BitVec.ofNat 16 (glyphSize * d.toNat)) else none

/-- The skip of R126: `pc` past one more instruction when the condition holds. -/
def State.skipIf (s : State) (taken : Bool) : State := if taken then s.setPc (s.pc + 2) else s

/-- The decimal digits of a byte, hundreds first (R167). -/
def bcdDigits (v : Byte) : List Byte :=
  [BitVec.ofNat 8 (v.toNat / 100), BitVec.ofNat 8 (v.toNat / 10 % 10), BitVec.ofNat 8 (v.toNat % 10)]

end Sys2Proof.Machine
end

