-- ==== Sys2Proof/Machine/Alu.lean ====
section
/-! DEFINITION. Register load, arithmetic, logic, shift and random instructions (41_arithmetic_logic.md R100 to R115).
Source operands are read from the state before any write (R100). -/

namespace Sys2Proof.Machine

/-- AddByte under parameters `p` (R103). -/
def addByteWith (p : Config.Params) (x : Reg) (kk : Byte) (s : State) : State :=
  if sumOf (s.reg x) kk > 255 then writeback p.flagOrder x (BitVec.ofNat 8 (sumOf (s.reg x) kk)) 1 s
  else addByteNoCarry p x (BitVec.ofNat 8 (sumOf (s.reg x) kk)) s

/-- AddReg under parameters `p` (R108). -/
def addRegWith (p : Config.Params) (x y : Reg) (s : State) : State :=
  writeback p.flagOrder x (BitVec.ofNat 8 (sumOf (s.reg x) (s.reg y))) (carryFlag (s.reg x) (s.reg y)) s

/-- SubReg under parameters `p` (R109). -/
def subRegWith (p : Config.Params) (x y : Reg) (s : State) : State :=
  writeback p.flagOrder x (differenceOf (s.reg x) (s.reg y)) (borrowFlag (s.reg x) (s.reg y)) s

/-- SubN under parameters `p` (R111). -/
def subNWith (p : Config.Params) (x y : Reg) (s : State) : State :=
  writeback p.flagOrder x (differenceOf (s.reg y) (s.reg x)) (borrowFlag (s.reg y) (s.reg x)) s

/-- ShiftRight under parameters `p` (R110, R112). -/
def shiftRightWith (p : Config.Params) (x y : Reg) (s : State) : State :=
  let v := s.shiftOperand p.shiftSource x y
  shiftWriteback p x (shiftedRight v) (lowBitFlag v) s

/-- ShiftLeft under parameters `p` (R113, R112). -/
def shiftLeftWith (p : Config.Params) (x y : Reg) (s : State) : State :=
  let v := s.shiftOperand p.shiftSource x y
  shiftWriteback p x (shiftedLeft v) (highBitFlag v) s

/-- LoadByte (R102). -/
def execLoadByte (x : Reg) (kk : Byte) (s : State) : Outcome := .next (s.setReg x kk)

/-- AddByte (R103). -/
def execAddByte (x : Reg) (kk : Byte) (s : State) : Outcome := .next (addByteWith params x kk s)

/-- LoadReg (R104). -/
def execLoadReg (x y : Reg) (s : State) : Outcome := .next (s.setReg x (s.reg y))

/-- Or (R105). -/
def execOr (x y : Reg) (s : State) : Outcome := .next (s.setReg x (s.reg x ||| s.reg y))

/-- And (R106). -/
def execAnd (x y : Reg) (s : State) : Outcome := .next (s.setReg x (s.reg x &&& s.reg y))

/-- Xor (R107). -/
def execXor (x y : Reg) (s : State) : Outcome := .next (s.setReg x (s.reg x ^^^ s.reg y))

/-- AddReg (R108). -/
def execAddReg (x y : Reg) (s : State) : Outcome := .next (addRegWith params x y s)

/-- SubReg (R109). -/
def execSubReg (x y : Reg) (s : State) : Outcome := .next (subRegWith params x y s)

/-- ShiftRight (R110). -/
def execShiftRight (x y : Reg) (s : State) : Outcome := .next (shiftRightWith params x y s)

/-- SubN (R111). -/
def execSubN (x y : Reg) (s : State) : Outcome := .next (subNWith params x y s)

/-- ShiftLeft (R113). -/
def execShiftLeft (x y : Reg) (s : State) : Outcome := .next (shiftLeftWith params x y s)

/-- Random (R115): a free byte masked by `kk`. -/
def execRandom (x : Reg) (kk : Byte) (s : State) : Outcome := .next (s.afterDraw.setReg x (s.draw8 &&& kk))

end Sys2Proof.Machine
end

