-- ==== Sys2Proof/Machine/Control.lean ====
section
/-! DEFINITION. Jump, call and return (43_control_transfer.md R130 to R134). A target is not checked here: the fetch of
the next step checks it (R134). -/

namespace Sys2Proof.Machine

/-- Call with a stack of `depth` entries (R131, R27). -/
def callWith (depth : Nat) (nnn : Addr) (s : State) : Outcome :=
  match s.push depth s.pc with
  | .ok t => .next (t.setPc (addrOf nnn))
  | .error e => raise e s

/-- Jump (R130). -/
def execJump (nnn : Addr) (s : State) : Outcome := .next (s.setPc (addrOf nnn))

/-- Call (R131). -/
def execCall (nnn : Addr) (s : State) : Outcome := callWith params.stackDepth nnn s

/-- Return (R132). -/
def execRet (s : State) : Outcome :=
  match s.pop with
  | .ok (v, t) => .next (t.setPc v)
  | .error e => raise e s

/-- JumpAdd (R133). -/
def execJumpAdd (nnn : Addr) (s : State) : Outcome := .next (s.setPc (s.jumpAddTarget nnn))

end Sys2Proof.Machine
end

