-- ==== Sys2Proof/Machine/Display.lean ====
section
/-! DEFINITION. Display instructions and the sprite-to-rectangle renderer (44_display.md R140 to R146). -/

namespace Sys2Proof.Machine

/-- The unit rectangles of one row: one per set bit, bit 7 first and leftmost (R143). -/
def rowRects (b : Byte) (x0 y : Nat) : List Rect :=
  (List.range 8).filterMap fun c => if b.getLsbD (7 - c) then some ⟨x0 + c, y, 1, 1⟩ else none

/-- `sprite_to_rects(bytes, x0, y0)` (R143): rows downward from `y0`. -/
def spriteToRects : List Byte → Nat → Nat → List Rect
  | [], _, _ => []
  | b :: bs, x0, y0 => rowRects b x0 y0 ++ spriteToRects bs x0 (y0 + 1)

/-- The sprite record of `n` bytes at `I` with origin `(V[x], V[y])` (R36, R141). -/
def State.spriteAt (s : State) (x y : Reg) (n : Nat) : Sprite where
  bytes := s.mem.readBytes s.base n
  x := (s.reg x).toNat
  y := (s.reg y).toNat
  yEnd := (s.reg y).toNat + n

/-- Append a sprite and return its rectangles only (R141, R142). -/
def State.place (s : State) (sprite : Sprite) : State :=
  { s with sprites := s.sprites ++ [sprite], directive := .draw (spriteToRects sprite.bytes sprite.x sprite.y) }

/-- ClearScreen (R140). -/
def execClearScreen (s : State) : Outcome := .next { s with sprites := [], directive := .clear }

/-- Draw (R141): the size check, then the bounds check, then the effect (R192). VF is not written (R145). -/
def execDraw (x y : Reg) (n : Nat) (s : State) : Outcome :=
  if n > maxSpriteRows then raise (.invalidSpriteSize n) s
  else withCells s s.base n (.next (s.place (s.spriteAt x y n)))

/-- SetISprite (R144): a value that is no digit leaves `I` unchanged. -/
def execSetISprite (x : Reg) (s : State) : Outcome :=
  .next (match glyphAddr (s.reg x) with
    | some a => { s with I := a }
    | none => s)

end Sys2Proof.Machine
end

