-- ==== Sys2Proof/Machine/IndexMemory.lean ====
section
/-! DEFINITION. Index-register and memory instructions (46_index_memory.md R165 to R170). `I` is never changed by an
access. -/

namespace Sys2Proof.Machine

/-- Store bytes from `I` upward, after the bounds check (R55, R167, R168). -/
def storeAtI (bytes : List Byte) (s : State) : Outcome :=
  withCells s s.base bytes.length (.next { s with mem := s.mem.writeBytes s.base bytes })

/-- LoadI (R165). -/
def execLoadI (nnn : Addr) (s : State) : Outcome := .next { s with I := addrOf nnn }

/-- AddI (R166): wraps at 16 bits, VF is not written. -/
def execAddI (x : Reg) (s : State) : Outcome :=
  .next { s with I := BitVec.ofNat 16 (s.I.toNat + (s.reg x).toNat) }

/-- StoreBCD (R167). -/
def execStoreBCD (x : Reg) (s : State) : Outcome := storeAtI (bcdDigits (s.reg x)) s

/-- StoreRegI (R168): `V[0]..V[x]`, inclusive. -/
def execStoreRegI (x : Reg) (s : State) : Outcome := storeAtI (s.regs (x.toNat + 1)) s

/-- LoadRegI (R169): `V[0]..V[x]`, inclusive. -/
def execLoadRegI (x : Reg) (s : State) : Outcome :=
  withCells s s.base (x.toNat + 1) (.next (s.loadRegs s.base (x.toNat + 1)))

end Sys2Proof.Machine
end

