-- ==== Sys2Proof/Machine/KeyTimer.lean ====
section
/-! DEFINITION. Key wait and timer instructions (45_key_timer.md R155 to R160). -/

namespace Sys2Proof.Machine

/-- GetDelay (R158): the value after this step's tick. -/
def execGetDelay (x : Reg) (s : State) : Outcome := .next (s.setReg x s.DT)

/-- WaitKey (R156, conflict C1): without a key, back onto this instruction. -/
def execWaitKey (x : Reg) (s : State) : Outcome :=
  .next (match s.key with
    | none => s.setPc (s.pc - 2)
    | some k => s.setReg x (k.setWidth 8))

/-- SetDelay (R159). -/
def execSetDelay (x : Reg) (s : State) : Outcome := .next { s with DT := s.reg x }

/-- SetSound (R160). -/
def execSetSound (x : Reg) (s : State) : Outcome := .next { s with ST := s.reg x }

end Sys2Proof.Machine
end

