-- ==== Sys2Proof/Machine/Skip.lean ====
section
/-! DEFINITION. Skip instructions (42_skip.md R120 to R126). -/

namespace Sys2Proof.Machine

/-- SkipEqualByte (R120). -/
def execSkipEqualByte (x : Reg) (kk : Byte) (s : State) : Outcome := .next (s.skipIf (decide (s.reg x = kk)))

/-- SkipNotEqualByte (R121). -/
def execSkipNotEqualByte (x : Reg) (kk : Byte) (s : State) : Outcome := .next (s.skipIf (decide (s.reg x ≠ kk)))

/-- SkipEqualReg (R122). -/
def execSkipEqualReg (x y : Reg) (s : State) : Outcome := .next (s.skipIf (decide (s.reg x = s.reg y)))

/-- SkipNotEqualReg (R123). -/
def execSkipNotEqualReg (x y : Reg) (s : State) : Outcome := .next (s.skipIf (decide (s.reg x ≠ s.reg y)))

/-- SkipKey (R124). -/
def execSkipKey (x : Reg) (s : State) : Outcome := .next (s.skipIf (s.keyMatches x))

/-- SkipNotKey (R125): the exact complement of SkipKey's condition. -/
def execSkipNotKey (x : Reg) (s : State) : Outcome := .next (s.skipIf (!s.keyMatches x))

end Sys2Proof.Machine
end

