-- ==== Sys2Proof/Machine/Dispatch.lean ====
section
/-! DEFINITION. Phase 4 of a step (40_step_cycle.md R94): one arm per instruction. -/

namespace Sys2Proof.Machine

def exec (i : Instr) (s : State) : Host.Outcome State Fault Refusal :=
  match i with
  | .clearScreen => Sys2Proof.Machine.execClearScreen s
  | .ret => Sys2Proof.Machine.execRet s
  | .jump nnn => Sys2Proof.Machine.execJump nnn s
  | .call nnn => Sys2Proof.Machine.execCall nnn s
  | .skipEqualByte x kk => Sys2Proof.Machine.execSkipEqualByte x kk s
  | .skipNotEqualByte x kk => Sys2Proof.Machine.execSkipNotEqualByte x kk s
  | .skipEqualReg x y => Sys2Proof.Machine.execSkipEqualReg x y s
  | .loadByte x kk => Sys2Proof.Machine.execLoadByte x kk s
  | .addByte x kk => Sys2Proof.Machine.execAddByte x kk s
  | .loadReg x y => Sys2Proof.Machine.execLoadReg x y s
  | .or x y => Sys2Proof.Machine.execOr x y s
  | .and x y => Sys2Proof.Machine.execAnd x y s
  | .xor x y => Sys2Proof.Machine.execXor x y s
  | .addReg x y => Sys2Proof.Machine.execAddReg x y s
  | .subReg x y => Sys2Proof.Machine.execSubReg x y s
  | .shiftRight x y => Sys2Proof.Machine.execShiftRight x y s
  | .subN x y => Sys2Proof.Machine.execSubN x y s
  | .shiftLeft x y => Sys2Proof.Machine.execShiftLeft x y s
  | .skipNotEqualReg x y => Sys2Proof.Machine.execSkipNotEqualReg x y s
  | .loadI nnn => Sys2Proof.Machine.execLoadI nnn s
  | .jumpAdd nnn => Sys2Proof.Machine.execJumpAdd nnn s
  | .random x kk => Sys2Proof.Machine.execRandom x kk s
  | .draw x y n => Sys2Proof.Machine.execDraw x y n s
  | .skipKey x => Sys2Proof.Machine.execSkipKey x s
  | .skipNotKey x => Sys2Proof.Machine.execSkipNotKey x s
  | .getDelay x => Sys2Proof.Machine.execGetDelay x s
  | .waitKey x => Sys2Proof.Machine.execWaitKey x s
  | .setDelay x => Sys2Proof.Machine.execSetDelay x s
  | .setSound x => Sys2Proof.Machine.execSetSound x s
  | .addI x => Sys2Proof.Machine.execAddI x s
  | .setISprite x => Sys2Proof.Machine.execSetISprite x s
  | .storeBCD x => Sys2Proof.Machine.execStoreBCD x s
  | .storeRegI x => Sys2Proof.Machine.execStoreRegI x s
  | .loadRegI x => Sys2Proof.Machine.execLoadRegI x s

end Sys2Proof.Machine
end

