-- ==== Sys2Proof/Machine/Step.lean ====
section
/-! DEFINITION. One step of the core (40_step_cycle.md R90). -/

namespace Sys2Proof.Machine

/-- Fetch, decode, timer tick, execute (R90). -/
def step (s : State) : Host.Outcome State Fault Refusal :=
  match stepBlocked s with
  | some r => .fault r
  | none =>
    match fetch s with
    | .error e => raise e s
    | .ok (op, t) =>
      match decode op with
      | .invalid bad => raise (.invalidInstruction bad) (beginExecute t)
      | .valid i => endStep (exec i (beginExecute t))

/-- `s` with the instruction of a table word stored where `step` fetches its next instruction, and the core enabled to
step there: it stands for the host's load, which makes the core ready (R212; assumption log 5). -/
def State.withFetchWord (s : State) (nbits w : Nat) : State :=
  { enableStep s with mem := placeOpcode s.mem (fetchPoint s.pc).toNat (tableOpcode nbits w) }

end Sys2Proof.Machine
end

