-- ==== Sys2Proof/Safety.lean ====
section
/-! DEFINITION. What counts as a safe run, and the terms the claims are stated in: the invariant of the core, the frames
of the instructions, and what one run may not learn from another. -/

namespace Sys2Proof.Safety

open Sys2Proof.Machine

/-! ## The invariant of the core -/

/-- `sp` counts the entries of a stack that is within its bound, and every entry is a post-fetch `pc` of a Call
(R26, R27, R131). -/
def StackOk (s : State) : Prop :=
  s.stack.length ≤ 16 ∧ s.sp.toNat = s.stack.length ∧ ∀ a ∈ s.stack, 0x202 ≤ a.toNat ∧ a.toNat ≤ 0x1000

/-- The ranges of a sprite record (R36). -/
def SpriteOk (p : Sprite) : Prop :=
  p.bytes.length ≤ 15 ∧ p.x ≤ 255 ∧ p.y ≤ 255 ∧ p.yEnd = p.y + p.bytes.length

/-- A unit rectangle in the ranges of R37. -/
def RectOk (r : Rect) : Prop := r.w = 1 ∧ r.h = 1 ∧ r.x ≤ 262 ∧ r.y ≤ 269

/-- A Draw directive carries at most 120 unit rectangles (R96, R143). -/
def DirectiveOk (d : Directive) : Prop :=
  match d with
  | .draw rects => rects.length ≤ 120 ∧ ∀ r ∈ rects, RectOk r
  | .clear => True
  | .none => True

/-- The invariant: memory is canonical and inside the array, the stack, the sprites and the directive are in their
ranges, and `pc` is at most `0x10FE` (R25). -/
def Inv (s : State) : Prop :=
  s.mem.wf = true ∧ StackOk s ∧ (∀ p ∈ s.sprites, SpriteOk p) ∧ DirectiveOk s.directive ∧ s.pc.toNat ≤ 0x10FE

/-! ## Frames -/

/-- Every byte of memory is unchanged. -/
def SameMemory (s t : State) : Prop := ∀ a, t.mem.read a = s.mem.read a

/-- Every byte of memory outside `lo .. lo + n - 1` is unchanged. -/
def SameMemoryOutside (lo n : Nat) (s t : State) : Prop := ∀ a, a < lo ∨ lo + n ≤ a → t.mem.read a = s.mem.read a

/-- Nothing but general registers may change. -/
def OnlyRegsChange (s t : State) : Prop := t = { s with V := t.V } ∧ SameMemory s t

/-- Nothing but general registers may change, and one draw is made. -/
def OnlyRegsChangeAndOneDraw (s t : State) : Prop := t = { s.afterDraw with V := t.V } ∧ SameMemory s t

/-- Nothing but `pc` may change. -/
def OnlyPcChanges (s t : State) : Prop := t = { s with pc := t.pc } ∧ SameMemory s t

/-- Nothing but `I` may change. -/
def OnlyIndexChanges (s t : State) : Prop := t = { s with I := t.I } ∧ SameMemory s t

/-- Nothing but `pc`, the stack and its counter may change. -/
def OnlyPcAndStackChange (s t : State) : Prop :=
  t = { s with pc := t.pc, stack := t.stack, sp := t.sp } ∧ SameMemory s t

/-- Nothing but the sprite list and the directive may change. -/
def OnlyDisplayChanges (s t : State) : Prop :=
  t = { s with sprites := t.sprites, directive := t.directive } ∧ SameMemory s t

/-- Nothing but the bytes of memory at `lo .. lo + n - 1` may change. -/
def OnlyCellsChange (lo n : Nat) (s t : State) : Prop := t = { s with mem := t.mem } ∧ SameMemoryOutside lo n s t

/-- Every general register but `x` is unchanged. -/
def OtherRegsSame (x : Reg) (s t : State) : Prop := ∀ r, r ≠ x → t.reg r = s.reg r

/-- Every general register but `x` and VF is unchanged. -/
def OtherRegsSameButVF (x : Reg) (s t : State) : Prop := ∀ r, r ≠ x → r ≠ 15#4 → t.reg r = s.reg r

/-! ## Enabled steps -/

/-- The core can step and the fetch is legal (R54, R90). -/
def Enabled (s : State) : Prop :=
  s.ready = true ∧ s.halted = false ∧ 0x200 ≤ s.pc.toNat ∧ s.pc.toNat < 0xFFF

/-- The opcode at the program counter, the byte at the lower address first (R51). -/
def opcodeAtPc (s : State) : Word := s.mem.read s.pc.toNat ++ s.mem.read (s.pc.toNat + 1)

/-- The state phase 4 starts from: `pc` past the opcode, both timers ticked, no directive yet (R90, R91, R93). -/
def phase4 (s : State) : State :=
  { s with
    pc := s.pc + 2
    DT := BitVec.ofNat 8 (s.DT.toNat - 1)
    ST := BitVec.ofNat 8 (s.ST.toNat - 1)
    directive := .none }

/-- What an error leaves: the given state, halted, without a directive (R181, R190). -/
def errorLeaves (e : Error) (s : State) : Outcome := .fault (.error e { s with halted := true, directive := .none })

/-! ## The flag tests of the source (R110, R113, conflict C4) -/

/-- The number of consecutive 1 bits among bits `i`, `i + 1`, .. (at most `fuel` of them). -/
def onesUp (v : Byte) (i : Nat) : Nat → Nat
  | 0 => 0
  | fuel + 1 => if v.getLsbD i then 1 + onesUp v (i + 1) fuel else 0

/-- `trailing_ones(v)`. -/
def trailingOnes (v : Byte) : Nat := onesUp v 0 8

/-- The number of consecutive 1 bits among the bits below `k`, from bit `k - 1` downward. -/
def onesDown (v : Byte) : Nat → Nat
  | 0 => 0
  | k + 1 => if v.getLsbD k then 1 + onesDown v k else 0

/-- `leading_ones(v)`. -/
def leadingOnes (v : Byte) : Nat := onesDown v 8

/-! ## The parameters of the shifts -/

/-- What a shift into `V[x]` leaves, from its result and its tested bit, under parameters `p` (R101, R110, R112, R113): the
flag is written when the tested bit is 1 or `SHIFT_VF_CLEAR` is zero, and with `x = 15` the later write survives. -/
def ShiftLeaves (p : Config.Params) (x : Reg) (result : Nat) (tested : Bool) (s t : State) : Prop :=
  (x ≠ 15#4 → (t.reg x).toNat = result) ∧
  (x ≠ 15#4 → tested = true → t.reg 15#4 = 1) ∧
  (x ≠ 15#4 → tested = false → p.shiftVfClear = .zero → t.reg 15#4 = 0) ∧
  (x ≠ 15#4 → tested = false → p.shiftVfClear = .unchanged → t.reg 15#4 = s.reg 15#4) ∧
  (x = 15#4 → p.flagOrder = .flagLast → tested = true → t.reg 15#4 = 1) ∧
  (x = 15#4 → p.flagOrder = .flagLast → tested = false → p.shiftVfClear = .zero → t.reg 15#4 = 0) ∧
  (x = 15#4 → p.flagOrder = .resultLast → (t.reg 15#4).toNat = result) ∧
  (x = 15#4 → tested = false → p.shiftVfClear = .unchanged → (t.reg 15#4).toNat = result) ∧
  OtherRegsSameButVF x s t ∧ OnlyRegsChange s t

/-! ## What a run cannot learn -/

/-- An outcome with its states seen through `f`. -/
def mapOutcome (f : State → State) : Outcome → Outcome
  | .next s => .next (f s)
  | .fault (.error e left) => .fault (.error e (f left))
  | .fault .notReady => .fault .notReady
  | .fault .halted => .fault .halted
  | .refused r => .refused r

/-- A state without what no instruction reads: the sprite list (R34), the sound timer (R160) and `sp` (R26). -/
def hideUnread (s : State) : State := { s with sprites := [], ST := 0, sp := 0 }

/-- The instructions that read the key input (R38). -/
def readsKey : Instr → Bool
  | .skipKey _ | .skipNotKey _ | .waitKey _ => true
  | .clearScreen | .ret | .jump _ | .call _ => false
  | .skipEqualByte _ _ | .skipNotEqualByte _ _ | .skipEqualReg _ _ | .skipNotEqualReg _ _ => false
  | .loadByte _ _ | .addByte _ _ | .loadReg _ _ | .or _ _ | .and _ _ | .xor _ _ => false
  | .addReg _ _ | .subReg _ _ | .shiftRight _ _ | .subN _ _ | .shiftLeft _ _ => false
  | .loadI _ | .jumpAdd _ | .random _ _ | .draw _ _ _ => false
  | .getDelay _ | .setDelay _ | .setSound _ => false
  | .addI _ | .setISprite _ | .storeBCD _ | .storeRegI _ | .loadRegI _ => false

/-- Whether an instruction may write VF: as a flag (the table of R23) or as its ordinary destination. -/
def mayWriteVF : Instr → Bool
  | .addByte _ _ | .addReg _ _ | .subReg _ _ | .subN _ _ | .shiftRight _ _ | .shiftLeft _ _ => true
  | .loadByte x _ | .loadReg x _ | .or x _ | .and x _ | .xor x _ | .random x _ | .getDelay x | .waitKey x
  | .loadRegI x => x == 15#4
  | .clearScreen | .ret | .jump _ | .call _ | .jumpAdd _ | .loadI _ | .draw _ _ _ => false
  | .skipEqualByte _ _ | .skipNotEqualByte _ _ | .skipEqualReg _ _ | .skipNotEqualReg _ _ | .skipKey _
  | .skipNotKey _ => false
  | .setDelay _ | .setSound _ | .addI _ | .setISprite _ | .storeBCD _ | .storeRegI _ => false

/-- Whether an instruction may write a general register, as its destination or as a flag (R23, R100). -/
def mayWriteRegs : Instr → Bool
  | .loadByte _ _ | .addByte _ _ | .loadReg _ _ | .or _ _ | .and _ _ | .xor _ _ => true
  | .addReg _ _ | .subReg _ _ | .shiftRight _ _ | .subN _ _ | .shiftLeft _ _ | .random _ _ => true
  | .getDelay _ | .waitKey _ | .loadRegI _ => true
  | .clearScreen | .ret | .jump _ | .call _ | .jumpAdd _ | .loadI _ | .draw _ _ _ => false
  | .skipEqualByte _ _ | .skipNotEqualByte _ _ | .skipEqualReg _ _ | .skipNotEqualReg _ _ | .skipKey _
  | .skipNotKey _ => false
  | .setDelay _ | .setSound _ | .addI _ | .setISprite _ | .storeBCD _ | .storeRegI _ => false

/-- Whether an instruction may change `pc` in execute (the table of R25). -/
def mayWritePc : Instr → Bool
  | .jump _ | .call _ | .ret | .jumpAdd _ | .waitKey _ => true
  | .skipEqualByte _ _ | .skipNotEqualByte _ _ | .skipEqualReg _ _ | .skipNotEqualReg _ _ | .skipKey _
  | .skipNotKey _ => true
  | .loadByte _ _ | .addByte _ _ | .loadReg _ _ | .or _ _ | .and _ _ | .xor _ _ => false
  | .addReg _ _ | .subReg _ _ | .shiftRight _ _ | .subN _ _ | .shiftLeft _ _ | .random _ _ => false
  | .clearScreen | .loadI _ | .draw _ _ _ | .getDelay _ | .setDelay _ | .setSound _ => false
  | .addI _ | .setISprite _ | .storeBCD _ | .storeRegI _ | .loadRegI _ => false

end Sys2Proof.Safety
end

