-- ==== Sys2Proof/Certificates/Slice0/Obligations.lean ====
section
/-! DEFINITION. The statements for the provers, from the numbered rules of spec/. Where a statement rests on a decision
of 92_eei_decisions.md (D<n>) or on an assumption log, its docstring names it. -/

open Sys2Proof Sys2Proof.Machine Sys2Proof.Safety

/-! ## Encoding (30_encoding.md) -/

/-- Decoding the encoding of a well-formed instruction gives it back, for every operand (R71, R73, R75; D1). -/
def Obligations.DecodeEncodeRoundTrip : Prop :=
  ∀ i : Instr, i.WellFormed → decode (encode i) = .valid i

/-- Every opcode that decodes to an instruction is the encoding of it, and the instruction is well-formed (R72, R75; D1). -/
def Obligations.EncodeDecodeRoundTrip : Prop :=
  ∀ (op : Word) (i : Instr), decode op = .valid i → i.WellFormed ∧ encode i = op

/-- The decoder of R74 agrees with every row of R75: an opcode decodes to the row's variant iff `op AND mask = match`. -/
def Obligations.OpcodeMapSelectsVariant : Prop :=
  ∀ (op : Word) (r : OpcodeRow), r ∈ opcodeMap →
    ((∃ i, decode op = .valid i ∧ i.mnemonic = r.variant) ↔ op &&& r.mask = r.bits)

/-- An opcode decodes to `Invalid`, keeping the opcode, iff it matches no row (R76, R77; D2, D3). -/
def Obligations.InvalidIffNoPattern : Prop :=
  ∀ op bad : Word, decode op = .invalid bad ↔ bad = op ∧ ∀ r ∈ opcodeMap, op &&& r.mask ≠ r.bits

/-- The 34 rows of R75 are pairwise disjoint. -/
def Obligations.OpcodeMapRowsDisjoint : Prop :=
  opcodeMap.length = 34 ∧
  ∀ (op : Word) (r q : OpcodeRow), r ∈ opcodeMap → q ∈ opcodeMap →
    op &&& r.mask = r.bits → op &&& q.mask = q.bits → r = q

/-- Words written out from R75 decode to the instructions they stand for (also vectors T-DEC-11 to T-DEC-58). -/
def Obligations.SpecWordsDecode : Prop :=
  decode 0x00E0#16 = .valid .clearScreen ∧
  decode 0x00EE#16 = .valid .ret ∧
  decode 0x1ABC#16 = .valid (.jump 0xABC#12) ∧
  decode 0x3A12#16 = .valid (.skipEqualByte 10#4 0x12#8) ∧
  decode 0x5120#16 = .valid (.skipEqualReg 1#4 2#4) ∧
  decode 0x8ABE#16 = .valid (.shiftLeft 10#4 11#4) ∧
  decode 0xDABF#16 = .valid (.draw 10#4 11#4 15) ∧
  decode 0xE1A1#16 = .valid (.skipNotKey 1#4) ∧
  decode 0xF755#16 = .valid (.storeRegI 7#4) ∧
  decode 0x5121#16 = .invalid 0x5121#16

/-! ## The step cycle (40_step_cycle.md) and what stops it (60_exceptions.md) -/

/-- When the opcode at `pc` decodes to `i`, a step is `exec i` on the state with `pc` past the opcode, both timers
ticked and no directive (R90 to R94). Around it the model moves on to the key input of the next step (R38, log 1). -/
def Obligations.StepRunsDecodedInstruction : Prop :=
  ∀ (s : State) (i : Instr), Enabled s → decode (opcodeAtPc s) = .valid i →
    match exec i (phase4 s) with
    | .next t => step s = .next { t with keyInputs := t.keyInputs.tail, keyCount := t.keyCount + 1 }
    | .fault r => step s = .fault r
    | .refused r => step s = .refused r

/-- A word placed by `withFetchWord` is the instruction the next step runs, whatever the state was (log 5). -/
def Obligations.PlacedWordRunsNext : Prop :=
  ∀ (s : State) (i : Instr), s.mem.wf = true → i.WellFormed →
    decodeTableWord 16 (encode i).toNat = some i ∧
    step (s.withFetchWord 16 (encode i).toNat) =
      endStep (exec i (phase4 (s.withFetchWord 16 (encode i).toNat)))

/-- Fetch (R91): the range check comes before anything else, and a legal fetch reads two bytes big-endian and advances
`pc` by 2 before the instruction executes. What the failure leaves, nothing changed but `halted` set and no directive, is
R54, R181 and R190 with the decision D20 (logs 3, 4); that nothing is advanced or ticked is R91's own inference from R90. -/
def Obligations.FetchChecksRangeAndAdvances : Prop :=
  ∀ s : State,
    (s.ready = true → s.halted = false → (s.pc.toNat < 0x200 ∨ 0xFFF ≤ s.pc.toNat) →
      step s = errorLeaves (.addressOutOfBounds s.pc) s) ∧
    (0x200 ≤ s.pc.toNat ∧ s.pc.toNat < 0xFFF → fetch s = .ok (opcodeAtPc s, { s with pc := s.pc + 2 })) ∧
    (∀ i, Enabled s → decode (opcodeAtPc s) = .valid i →
      ∃ u, step s = endStep (exec i u) ∧ u.pc = s.pc + 2 ∧ u.mem = s.mem)

/-- An opcode of no row raises `InvalidInstruction(op)` after the fetch advance and the timer tick (R76, R181, R184). -/
def Obligations.InvalidOpcodeRaises : Prop :=
  ∀ s : State, Enabled s → (∀ r ∈ opcodeMap, opcodeAtPc s &&& r.mask ≠ r.bits) →
    step s = errorLeaves (.invalidInstruction (opcodeAtPc s)) (phase4 s)

/-- No step before a successful load and none after an error (R39, R40, R215; D19, D20). -/
def Obligations.StepNeedsReadyAndNotHalted : Prop :=
  ∀ s : State,
    (s.halted = true → step s = .fault .halted) ∧
    (s.halted = false → s.ready = false → step s = .fault .notReady)

/-- Both timers tick exactly once in every step whose fetch succeeds, whatever the instruction and also when it
raises; only SetDelay and SetSound write them otherwise; a step that fails in fetch does not tick (R93). -/
def Obligations.TimersTickOncePerStep : Prop :=
  ∀ s : State,
    (∀ t, step s = .next t → (∀ x, decode (opcodeAtPc s) ≠ .valid (.setDelay x)) → t.DT.toNat = s.DT.toNat - 1) ∧
    (∀ t, step s = .next t → (∀ x, decode (opcodeAtPc s) ≠ .valid (.setSound x)) → t.ST.toNat = s.ST.toNat - 1) ∧
    (∀ e left, step s = .fault (.error e left) → Enabled s →
      left.DT.toNat = s.DT.toNat - 1 ∧ left.ST.toNat = s.ST.toNat - 1) ∧
    (∀ e left, step s = .fault (.error e left) → ¬ Enabled s → left.DT = s.DT ∧ left.ST = s.ST)

/-- Every error of an instruction is precise: it leaves the state of phase 4, halted (R181, R190). -/
def Obligations.ErrorsArePrecise : Prop :=
  ∀ (i : Instr) (s : State) (r : Fault), exec i s = .fault r →
    ∃ e, exec i s = errorLeaves e s

/-- An instruction raises an error exactly where R180 lists one: Return on an empty stack, Call on a full one, a Draw
height above 15, and the data accesses that leave the array (D10, D11). -/
def Obligations.ErrorsExactlyWhereListed : Prop :=
  ∀ (i : Instr) (s : State), (∃ r, exec i s = .fault r) ↔
    (i = .ret ∧ s.stack = []) ∨
    (∃ nnn, i = .call nnn ∧ 16 ≤ s.stack.length) ∨
    (∃ x y n, i = .draw x y n ∧ (15 < n ∨ (0 < n ∧ 0x1000 < s.I.toNat + (n - 1)))) ∨
    (∃ x, i = .storeBCD x ∧ 0x1000 < s.I.toNat + 2) ∨
    (∃ x, (i = .storeRegI x ∨ i = .loadRegI x) ∧ 0x1000 < s.I.toNat + x.toNat)

/-- Nothing is refused at the machine level (R201). -/
def Obligations.NothingIsRefused : Prop :=
  ∀ (s : State) (r : Refusal), step s ≠ .refused r

/-! ## Whole-machine rules -/

/-- Which instructions write which state element (R21, R25 to R30, R34, R39, R40, R50): memory, the stack and `sp`, `I`,
both timers, the sprites and the directive, the general registers, `pc`, and by no instruction `ready` and `halted`.
That Or, And, Xor and AddI write no flag is D25 (log 20). -/
def Obligations.StateElementsHaveTheirWriters : Prop :=
  ∀ (i : Instr) (s t : State), exec i s = .next t →
    ((∀ x, i ≠ .storeBCD x ∧ i ≠ .storeRegI x) → t.mem = s.mem) ∧
    ((∀ nnn, i ≠ .call nnn) → i ≠ .ret → t.stack = s.stack ∧ t.sp = s.sp) ∧
    ((∀ nnn, i ≠ .loadI nnn) → (∀ x, i ≠ .addI x ∧ i ≠ .setISprite x) → t.I = s.I) ∧
    ((∀ x, i ≠ .setDelay x) → t.DT = s.DT) ∧
    ((∀ x, i ≠ .setSound x) → t.ST = s.ST) ∧
    (i ≠ .clearScreen → (∀ x y n, i ≠ .draw x y n) → t.sprites = s.sprites ∧ t.directive = s.directive) ∧
    (mayWriteRegs i = false → t.V = s.V) ∧
    (mayWritePc i = false → t.pc = s.pc) ∧
    t.ready = s.ready ∧ t.halted = s.halted

/-- VF is unchanged by every instruction that neither writes it as a flag nor has it as its destination (R23, R145; D25). -/
def Obligations.VFKeptUnlessWritten : Prop :=
  ∀ (i : Instr) (s t : State), exec i s = .next t → mayWriteVF i = false → t.reg 15#4 = s.reg 15#4

/-- No step lets the sprite list, the sound timer or `sp` influence anything else (R26, R30, R34): runs from states that
differ in these only differ in these only. -/
def Obligations.UnreadStateInfluencesNothing : Prop :=
  ∀ s s' : State, hideUnread s = hideUnread s' → mapOutcome hideUnread (step s) = mapOutcome hideUnread (step s')

/-- Only SkipKey, SkipNotKey and WaitKey depend on the key input (R38, R94). -/
def Obligations.OnlyKeyInstructionsReadKey : Prop :=
  ∀ (i : Instr) (s : State) (keys : List (Option KeyCode)) (n : Nat), readsKey i = false →
    exec i { s with keyInputs := keys, keyCount := n } =
      mapOutcome (fun t => { t with keyInputs := keys, keyCount := n }) (exec i s)

/-! ## Load, arithmetic, logic, shift, random (41_arithmetic_logic.md) -/

/-- LoadByte (R102; D4). -/
def Obligations.LoadByteWritesImmediate : Prop :=
  ∀ (x : Reg) (kk : Byte) (s : State), ∃ t, exec (.loadByte x kk) s = .next t ∧
    t.reg x = kk ∧ OtherRegsSame x s t ∧ OnlyRegsChange s t

/-- LoadReg, Or, And, Xor (R104 to R107; D4, D25): both operands are read first, VF is no flag. -/
def Obligations.MoveAndLogicWriteDestination : Prop :=
  ∀ (x y : Reg) (s : State),
    (∃ t, exec (.loadReg x y) s = .next t ∧
      t.reg x = s.reg y ∧ OtherRegsSame x s t ∧ OnlyRegsChange s t) ∧
    (∃ t, exec (.or x y) s = .next t ∧
      t.reg x = s.reg x ||| s.reg y ∧ OtherRegsSame x s t ∧ OnlyRegsChange s t) ∧
    (∃ t, exec (.and x y) s = .next t ∧
      t.reg x = s.reg x &&& s.reg y ∧ OtherRegsSame x s t ∧ OnlyRegsChange s t) ∧
    (∃ t, exec (.xor x y) s = .next t ∧
      t.reg x = s.reg x ^^^ s.reg y ∧ OtherRegsSame x s t ∧ OnlyRegsChange s t)

/-- AddByte (R103): VF is 1 on a carry and a free draw otherwise, whatever the draw is (D5); with `x = 15` VF ends as the
flag (D6, log 8). -/
def Obligations.AddByteCarriesOrDrawsVF : Prop :=
  ∀ (x : Reg) (kk : Byte) (s : State),
    ((s.reg x).toNat + kk.toNat > 255 → ∃ t, exec (.addByte x kk) s = .next t ∧
      t.reg 15#4 = 1 ∧ (x ≠ 15#4 → (t.reg x).toNat = (s.reg x).toNat + kk.toNat - 256) ∧
      OtherRegsSameButVF x s t ∧ OnlyRegsChange s t) ∧
    ((s.reg x).toNat + kk.toNat ≤ 255 → ∃ t, exec (.addByte x kk) s = .next t ∧
      t.reg 15#4 = s.draw8 ∧ (x ≠ 15#4 → (t.reg x).toNat = (s.reg x).toNat + kk.toNat) ∧
      OtherRegsSameButVF x s t ∧ OnlyRegsChangeAndOneDraw s t)

/-- AddReg (R108, R114): the sum modulo 256, VF 1 iff it exceeds 255; with `x = 15` VF ends as the carry (D6, log 8). -/
def Obligations.AddRegSumsAndSetsCarry : Prop :=
  ∀ (x y : Reg) (s : State), ∃ t, exec (.addReg x y) s = .next t ∧
    t.reg 15#4 = (if (s.reg x).toNat + (s.reg y).toNat > 255 then 1 else 0) ∧
    (x ≠ 15#4 → (t.reg x).toNat = ((s.reg x).toNat + (s.reg y).toNat) % 256) ∧
    OtherRegsSameButVF x s t ∧ OnlyRegsChange s t

/-- SubReg and SubN (R109, R111, R114): the difference modulo 256, VF 1 iff a borrow occurred; with `x = 15` VF ends as
the borrow (D6, log 8). -/
def Obligations.SubtractVariantsSetBorrow : Prop :=
  ∀ (x y : Reg) (s : State),
    (∃ t, exec (.subReg x y) s = .next t ∧
      t.reg 15#4 = (if (s.reg x).toNat < (s.reg y).toNat then 1 else 0) ∧
      (x ≠ 15#4 → ((t.reg x).toNat + (s.reg y).toNat) % 256 = (s.reg x).toNat) ∧
      OtherRegsSameButVF x s t ∧ OnlyRegsChange s t) ∧
    (∃ t, exec (.subN x y) s = .next t ∧
      t.reg 15#4 = (if (s.reg y).toNat < (s.reg x).toNat then 1 else 0) ∧
      (x ≠ 15#4 → ((t.reg x).toNat + (s.reg x).toNat) % 256 = (s.reg y).toNat) ∧
      OtherRegsSameButVF x s t ∧ OnlyRegsChange s t)

/-- ShiftRight and ShiftLeft (R110, R113): VF is 1 iff the source's bit-run test holds before the shift, and 0 otherwise
(D9); `V[x]` is shifted (D8); with `x = 15` VF ends as the flag (D6, log 8). -/
def Obligations.ShiftsSetRunTestFlag : Prop :=
  ∀ (x y : Reg) (s : State),
    (∃ t, exec (.shiftRight x y) s = .next t ∧
      t.reg 15#4 = (if trailingOnes (s.reg x) > 0 then 1 else 0) ∧
      (x ≠ 15#4 → (t.reg x).toNat = (s.reg x).toNat / 2) ∧
      OtherRegsSameButVF x s t ∧ OnlyRegsChange s t) ∧
    (∃ t, exec (.shiftLeft x y) s = .next t ∧
      t.reg 15#4 = (if leadingOnes (s.reg x) > 0 then 1 else 0) ∧
      (x ≠ 15#4 → (t.reg x).toNat = (s.reg x).toNat * 2 % 256) ∧
      OtherRegsSameButVF x s t ∧ OnlyRegsChange s t)

/-- Random (R115; D4, D17): the free byte, whatever it is, masked by `kk`; the next draw is another one. -/
def Obligations.RandomMasksFreeByte : Prop :=
  ∀ (x : Reg) (kk : Byte) (s : State), ∃ t, exec (.random x kk) s = .next t ∧
    t.reg x = s.draw8 &&& kk ∧ OtherRegsSame x s t ∧ OnlyRegsChangeAndOneDraw s t

/-- `FLAG_ORDER` matters only where the destination is VF (R101): there it decides which write survives. -/
def Obligations.FlagOrderMattersOnlyForVF : Prop :=
  ∀ (p : Config.Params) (o : Config.FlagOrder) (x y : Reg) (kk : Byte) (s : State),
    (x ≠ 15#4 →
      addByteWith { p with flagOrder := o } x kk s = addByteWith p x kk s ∧
      addRegWith { p with flagOrder := o } x y s = addRegWith p x y s ∧
      subRegWith { p with flagOrder := o } x y s = subRegWith p x y s ∧
      subNWith { p with flagOrder := o } x y s = subNWith p x y s ∧
      shiftRightWith { p with flagOrder := o } x y s = shiftRightWith p x y s ∧
      shiftLeftWith { p with flagOrder := o } x y s = shiftLeftWith p x y s) ∧
    (addRegWith { p with flagOrder := .flagLast } 15#4 y s).reg 15#4 =
      (if (s.reg 15#4).toNat + (s.reg y).toNat > 255 then 1 else 0) ∧
    ((addRegWith { p with flagOrder := .resultLast } 15#4 y s).reg 15#4).toNat =
      ((s.reg 15#4).toNat + (s.reg y).toNat) % 256

/-- The three values of `ADDBYTE_VF_NOCARRY` (R103, D5). -/
def Obligations.AddByteParameterForms : Prop :=
  ∀ (p : Config.Params) (x : Reg) (kk : Byte) (s : State), (s.reg x).toNat + kk.toNat ≤ 255 → x ≠ 15#4 →
    ((addByteWith p x kk s).reg x).toNat = (s.reg x).toNat + kk.toNat ∧
    (p.addByteVfNoCarry = .any → (addByteWith p x kk s).reg 15#4 = s.draw8) ∧
    (p.addByteVfNoCarry = .unchanged → (addByteWith p x kk s).reg 15#4 = s.reg 15#4) ∧
    (p.addByteVfNoCarry = .zero → (addByteWith p x kk s).reg 15#4 = 0)

/-- Both shifts under every setting of `SHIFT_SOURCE`, `SHIFT_VF_CLEAR` and `FLAG_ORDER` (R101, R110, R112, R113; D6, D8,
D9): the operand `v` is `V[x]` or `V[y]`, and result, flag and collision follow from it, also for `x = 15`. -/
def Obligations.ShiftParameterForms : Prop :=
  ∀ (p : Config.Params) (x y : Reg) (s : State) (v : Byte), v = s.shiftOperand p.shiftSource x y →
    (p.shiftSource = .vx → v = s.reg x) ∧
    (p.shiftSource = .vy → v = s.reg y) ∧
    ShiftLeaves p x (v.toNat / 2) (decide (v.toNat % 2 = 1)) s (shiftRightWith p x y s) ∧
    ShiftLeaves p x (v.toNat * 2 % 256) (decide (128 ≤ v.toNat)) s (shiftLeftWith p x y s)

/-! ## Skips (42_skip.md) -/

/-- The four register and byte skips (R120 to R123), and what a skip leaves alone (R126). -/
def Obligations.SkipFormsCompareRegisters : Prop :=
  ∀ (x y : Reg) (kk : Byte) (s : State),
    (∃ t, exec (.skipEqualByte x kk) s = .next t ∧
      t.pc = (if s.reg x = kk then s.pc + 2 else s.pc) ∧ OnlyPcChanges s t) ∧
    (∃ t, exec (.skipNotEqualByte x kk) s = .next t ∧
      t.pc = (if s.reg x ≠ kk then s.pc + 2 else s.pc) ∧ OnlyPcChanges s t) ∧
    (∃ t, exec (.skipEqualReg x y) s = .next t ∧
      t.pc = (if s.reg x = s.reg y then s.pc + 2 else s.pc) ∧ OnlyPcChanges s t) ∧
    (∃ t, exec (.skipNotEqualReg x y) s = .next t ∧
      t.pc = (if s.reg x ≠ s.reg y then s.pc + 2 else s.pc) ∧ OnlyPcChanges s t)

/-- SkipKey is taken iff a key is held whose code equals the whole `V[x]`, SkipNotKey exactly otherwise (R124, R125; D14). -/
def Obligations.KeySkipsAreComplements : Prop :=
  ∀ (x : Reg) (s : State), ∃ t u, exec (.skipKey x) s = .next t ∧ exec (.skipNotKey x) s = .next u ∧
    ((∃ k, s.key = some k ∧ k.toNat = (s.reg x).toNat) → t.pc = s.pc + 2 ∧ u.pc = s.pc) ∧
    (¬ (∃ k, s.key = some k ∧ k.toNat = (s.reg x).toNat) → t.pc = s.pc ∧ u.pc = s.pc + 2) ∧
    OnlyPcChanges s t ∧ OnlyPcChanges s u

/-! ## Jump, call, return (43_control_transfer.md) -/

/-- Jump (R130): any target is accepted; one outside the fetch range makes the next fetch fail, and a jump to its own
address leaves `pc` where it was. What the failing fetch leaves is R54, R181 and R190 with the decision D20 (logs 3, 4). -/
def Obligations.JumpSetsPc : Prop :=
  ∀ (nnn : Addr) (s : State),
    (∃ t, exec (.jump nnn) s = .next t ∧ t.pc.toNat = nnn.toNat ∧ OnlyPcChanges s t ∧
      (s.ready = true → s.halted = false → (nnn.toNat < 0x200 ∨ nnn.toNat = 0xFFF) →
        step t = errorLeaves (.addressOutOfBounds t.pc) t)) ∧
    (Enabled s → decode (opcodeAtPc s) = .valid (.jump nnn) → nnn.toNat = s.pc.toNat →
      ∃ t, step s = .next t ∧ t.pc = s.pc)

/-- JumpAdd (R133; D15): the sum with `V[0]` in full. -/
def Obligations.JumpAddKeepsFullSum : Prop :=
  ∀ (nnn : Addr) (s : State), ∃ t, exec (.jumpAdd nnn) s = .next t ∧
    t.pc.toNat = nnn.toNat + (s.reg 0#4).toNat ∧ OnlyPcChanges s t

/-- Call (R131, R27): the post-fetch `pc` is pushed; on a full stack nothing changes and `StackOverflow(pc)` is raised
(D11, log 9). -/
def Obligations.CallPushesReturnAddress : Prop :=
  ∀ (nnn : Addr) (s : State),
    (s.stack.length < 16 → ∃ t, exec (.call nnn) s = .next t ∧ t.pc.toNat = nnn.toNat ∧
      t.stack = s.stack ++ [s.pc] ∧ t.sp = s.sp + 1 ∧ OnlyPcAndStackChange s t) ∧
    (16 ≤ s.stack.length → exec (.call nnn) s = errorLeaves (.stackOverflow s.pc) s)

/-- Return (R132): the top entry goes to `pc`; on an empty stack nothing changes and `AddressOutOfBounds(pc)` is raised;
after a Call it restores `pc` to the address after the Call. What the error leaves, `halted` set and no directive, is R181
and R190 with the decision D20 (logs 3, 4). -/
def Obligations.ReturnPopsTopEntry : Prop :=
  ∀ s : State,
    (∀ rest v, s.stack = rest ++ [v] → ∃ t, exec .ret s = .next t ∧ t.pc = v ∧ t.stack = rest ∧ t.sp = s.sp - 1 ∧
      OnlyPcAndStackChange s t) ∧
    (s.stack = [] → exec .ret s = errorLeaves (.addressOutOfBounds s.pc) s) ∧
    (∀ nnn t, exec (.call nnn) s = .next t → ∃ u, exec .ret t = .next u ∧ u.pc = s.pc)

/-- Call followed immediately by Return restores `pc`, the stack and `sp`, and so the whole state (R132, vector S6). -/
def Obligations.CallThenReturnRestores : Prop :=
  ∀ (nnn : Addr) (s : State), s.stack.length < 16 →
    ∃ t, exec (.call nnn) s = .next t ∧ t.stack.length = s.stack.length + 1 ∧ exec .ret t = .next s

/-! ## Display (44_display.md) -/

/-- ClearScreen (R140): a Draw after it finds no other sprite and draws the new one only. -/
def Obligations.ClearScreenEmptiesSprites : Prop :=
  ∀ s : State, ∃ t, exec .clearScreen s = .next t ∧ t.sprites = [] ∧ t.directive = .clear ∧ OnlyDisplayChanges s t ∧
    ∀ x y n u, exec (.draw x y n) t = .next u →
      ∃ p, u.sprites = [p] ∧ u.directive = .draw (spriteToRects p.bytes p.x p.y)

/-- Draw inside the array (R141, R142, R145; D16): the bytes at `I` become a sprite at `(V[x], V[y])`, appended at the
end, and the directive carries the new sprite's rectangles only. -/
def Obligations.DrawAppendsSprite : Prop :=
  ∀ (x y : Reg) (n : Nat) (s : State), n ≤ 15 → (n = 0 ∨ s.I.toNat + (n - 1) ≤ 0x1000) →
    ∃ t bytes, exec (.draw x y n) s = .next t ∧
      bytes = (List.range n).map (fun k => s.mem.read (s.I.toNat + k)) ∧
      t.sprites = s.sprites ++ [⟨bytes, (s.reg x).toNat, (s.reg y).toNat, (s.reg y).toNat + n⟩] ∧
      t.directive = .draw (spriteToRects bytes (s.reg x).toNat (s.reg y).toNat) ∧
      OnlyDisplayChanges s t

/-- What Draw does not do (R145): it erases nothing, VF keeps its value, no rectangle lies left of or above the origin (no
coordinate wraps), and drawing the same sprite twice gives the same rectangles twice and two equal records. That the
rectangles run rightward and downward from the origin is the geometry of R143, the decision D16 (log 15, a choice). -/
def Obligations.DrawErasesNothing : Prop :=
  ∀ (x y : Reg) (n : Nat) (s t u : State), exec (.draw x y n) s = .next t → exec (.draw x y n) t = .next u →
    t.reg 15#4 = s.reg 15#4 ∧ u.reg 15#4 = s.reg 15#4 ∧ u.directive = t.directive ∧
    ∃ p, t.sprites = s.sprites ++ [p] ∧ u.sprites = s.sprites ++ [p, p] ∧
      ∃ rects, t.directive = .draw rects ∧ ∀ q ∈ rects, (s.reg x).toNat ≤ q.x ∧ (s.reg y).toNat ≤ q.y

/-- The renderer (R143; D16): one unit rectangle per 1 bit and none per 0 bit, at column `c` for bit `7 - c` and row `r`
for byte `r`, without wrap or clipping, listed row by row and from bit 7 to bit 0. -/
def Obligations.RendererEmitsUnitRects : Prop :=
  ∀ (bytes : List Byte) (x0 y0 : Nat),
    (∀ q : Rect, q ∈ spriteToRects bytes x0 y0 ↔
      ∃ r c, ∃ h : r < bytes.length, c < 8 ∧ (bytes[r]'h).getLsbD (7 - c) = true ∧ q = ⟨x0 + c, y0 + r, 1, 1⟩) ∧
    (spriteToRects bytes x0 y0).Pairwise (fun a b => a.y < b.y ∨ (a.y = b.y ∧ a.x < b.x))

/-- SetISprite (R144): the whole byte is looked up; a value that is no digit leaves `I` unchanged. The mapping `5 * d` is
R32's own inference. -/
def Obligations.SetISpriteLooksUpDigit : Prop :=
  ∀ (x : Reg) (s : State), ∃ t, exec (.setISprite x) s = .next t ∧
    ((s.reg x).toNat ≤ 15 → t.I.toNat = 5 * (s.reg x).toNat) ∧
    (15 < (s.reg x).toNat → t.I = s.I) ∧ OnlyIndexChanges s t

/-! ## Key wait and timers (45_key_timer.md) -/

/-- WaitKey (R156; conflict C1, log 11): back by one instruction without a key, the code into `V[x]` with one. -/
def Obligations.WaitKeyWaitsOrStoresCode : Prop :=
  ∀ (x : Reg) (s : State),
    (s.key = none → ∃ t, exec (.waitKey x) s = .next t ∧ t.pc = s.pc - 2 ∧ OnlyPcChanges s t) ∧
    (∀ k, s.key = some k → ∃ t, exec (.waitKey x) s = .next t ∧
      (t.reg x).toNat = k.toNat ∧ OtherRegsSame x s t ∧ OnlyRegsChange s t)

/-- A waiting step is a full step that leaves `pc` where it was: the timers tick, nothing else changes but the inputs of
the next step (R156, R157; conflict C1). -/
def Obligations.WaitingStepKeepsPc : Prop :=
  ∀ (s : State) (x : Reg), Enabled s → decode (opcodeAtPc s) = .valid (.waitKey x) → s.key = none →
    ∃ t, step s = .next t ∧ t.pc = s.pc ∧ t.DT.toNat = s.DT.toNat - 1 ∧ t.ST.toNat = s.ST.toNat - 1 ∧
      t = { s with DT := t.DT, ST := t.ST, directive := .none, keyInputs := s.keyInputs.tail,
                   keyCount := s.keyCount + 1 }

/-- GetDelay, SetDelay, SetSound (R158 to R160; D4). -/
def Obligations.TimerInstructionsMoveTimers : Prop :=
  ∀ (x : Reg) (s : State),
    (∃ t, exec (.getDelay x) s = .next t ∧ t.reg x = s.DT ∧ OtherRegsSame x s t ∧ OnlyRegsChange s t) ∧
    (∃ t, exec (.setDelay x) s = .next t ∧ t.DT = s.reg x ∧ t = { s with DT := t.DT } ∧ SameMemory s t) ∧
    (∃ t, exec (.setSound x) s = .next t ∧ t.ST = s.reg x ∧ t = { s with ST := t.ST } ∧ SameMemory s t)

/-! ## Index register and memory (46_index_memory.md, 20_memory.md) -/

/-- LoadI and AddI (R165, R166; D4, D15, D25): 16 bits, no mask, no flag. -/
def Obligations.IndexInstructionsWriteI : Prop :=
  ∀ (nnn : Addr) (x : Reg) (s : State),
    (∃ t, exec (.loadI nnn) s = .next t ∧ t.I.toNat = nnn.toNat ∧ OnlyIndexChanges s t) ∧
    (∃ t, exec (.addI x) s = .next t ∧ t.I.toNat = (s.I.toNat + (s.reg x).toNat) % 65536 ∧ OnlyIndexChanges s t)

/-- StoreBCD inside the array (R167): hundreds, tens and units in three cells from `I`, nothing else. -/
def Obligations.StoreBCDWritesDigits : Prop :=
  ∀ (x : Reg) (s : State), s.mem.wf = true → s.base + 2 ≤ 0x1000 →
    ∃ t, exec (.storeBCD x) s = .next t ∧
      (t.mem.read s.base).toNat = (s.reg x).toNat / 100 ∧
      (t.mem.read (s.base + 1)).toNat = (s.reg x).toNat / 10 % 10 ∧
      (t.mem.read (s.base + 2)).toNat = (s.reg x).toNat % 10 ∧
      OnlyCellsChange s.base 3 s t

/-- StoreRegI inside the array (R168): `V[0]..V[x]` in `x + 1` cells from `I`, nothing else. -/
def Obligations.StoreRegICopiesRegisters : Prop :=
  ∀ (x : Reg) (s : State), s.mem.wf = true → s.base + x.toNat ≤ 0x1000 →
    ∃ t, exec (.storeRegI x) s = .next t ∧
      (∀ k : Reg, k.toNat ≤ x.toNat → t.mem.read (s.base + k.toNat) = s.reg k) ∧
      OnlyCellsChange s.base (x.toNat + 1) s t

/-- LoadRegI inside the array (R169): `V[0]..V[x]` from `x + 1` cells at `I`, the other registers untouched. -/
def Obligations.LoadRegICopiesCells : Prop :=
  ∀ (x : Reg) (s : State), s.base + x.toNat ≤ 0x1000 →
    ∃ t, exec (.loadRegI x) s = .next t ∧
      (∀ k : Reg, k.toNat ≤ x.toNat → t.reg k = s.mem.read (s.base + k.toNat)) ∧
      (∀ k : Reg, x.toNat < k.toNat → t.reg k = s.reg k) ∧ OnlyRegsChange s t

/-- LoadRegI is the inverse copy of StoreRegI (R169): loading what was just stored changes nothing. -/
def Obligations.LoadAfterStoreKeepsRegisters : Prop :=
  ∀ (x : Reg) (s : State), s.mem.wf = true → s.base + x.toNat ≤ 0x1000 →
    ∃ t, exec (.storeRegI x) s = .next t ∧ t.V = s.V ∧ exec (.loadRegI x) t = .next t

/-- A data access that leaves the array raises for the lowest address outside it, before any effect (R55, R187; D10);
in Draw the size check comes first (R146, R192). -/
def Obligations.DataAccessOutsideRaises : Prop :=
  ∀ (x y : Reg) (n : Nat) (s : State),
    (15 < n → exec (.draw x y n) s = errorLeaves (.invalidSpriteSize n) s) ∧
    (n ≤ 15 → 0 < n → 0x1000 < s.base + (n - 1) →
      exec (.draw x y n) s = errorLeaves (.memoryOutOfRange (max s.base 0x1001)) s) ∧
    (0x1000 < s.base + 2 → exec (.storeBCD x) s = errorLeaves (.memoryOutOfRange (max s.base 0x1001)) s) ∧
    (0x1000 < s.base + x.toNat →
      exec (.storeRegI x) s = errorLeaves (.memoryOutOfRange (max s.base 0x1001)) s ∧
      exec (.loadRegI x) s = errorLeaves (.memoryOutOfRange (max s.base 0x1001)) s)

/-- Canonical memories that read alike are equal data (the model's form of memory, log 7). -/
def Obligations.CanonicalMemoryIsExtensional : Prop :=
  ∀ m m' : Memory, m.wf = true → m'.wf = true → (∀ a, m.read a = m'.read a) → m = m'

/-! ## Registers, reset and load (10_state.md, 70_reset_and_hazards.md) -/

/-- The register gate (R22): an index in `0x0..0xF` reads or writes that register, any other index is an error that
names it and is never clamped. -/
def Obligations.RegisterAccessIsGated : Prop :=
  ∀ (s : State) (b : Byte),
    (∀ x : Reg, s.getV x.toNat = .ok (s.reg x) ∧
      ∃ t, s.putV x.toNat b = .ok t ∧ t.reg x = b ∧ OtherRegsSame x s t ∧ OnlyRegsChange s t) ∧
    (∀ i, 15 < i → s.getV i = .error (.invalidRegister i) ∧ s.putV i b = .error (.invalidRegister i))

/-- A ROM longer than `0xDFF` bytes is rejected with its overage, any other is accepted (R211; D27 for length 0). -/
def Obligations.LoadRejectsLongRom : Prop :=
  ∀ (rom : List Byte) (s : State),
    (0xDFF < rom.length → s.load rom = .error (.romTooLarge (rom.length - 0xDFF))) ∧
    (rom.length ≤ 0xDFF → ∃ t, s.load rom = .ok t)

/-- A successful load (R212): the ROM bytes from `0x200`, `pc` at `0x200`, ready, and nothing else written. It holds of every
state, so of a core that has run or is halted (R213, the decision D26) and of the empty ROM (D27), log 20. -/
def Obligations.LoadCopiesRom : Prop :=
  ∀ (rom : List Byte) (s : State), s.mem.wf = true → rom.length ≤ 0xDFF →
    ∃ t, s.load rom = .ok t ∧
      (∀ j, ∀ h : j < rom.length, t.mem.read (0x200 + j) = rom[j]'h) ∧
      SameMemoryOutside 0x200 rom.length s t ∧
      t.pc = 0x200#16 ∧ t.ready = true ∧ t = { s with mem := t.mem, pc := t.pc, ready := t.ready }

/-- The state after construction and one load (R41, R210): the 80 glyph bytes of R33 (D18), the ROM from `0x200`, zero
everywhere else (D12, logs 6 and 7), not halted (D20). -/
def Obligations.LoadedResetState : Prop :=
  ∀ rom : List Byte, rom.length ≤ 0xDFF → ∃ t, State.reset.load rom = .ok t ∧
    (∀ r, t.reg r = 0) ∧ t.I = 0 ∧ t.pc = 0x200#16 ∧ t.sp = 0 ∧ t.stack = [] ∧ t.DT = 0 ∧ t.ST = 0 ∧
    t.sprites = [] ∧ t.ready = true ∧ t.halted = false ∧
    (t.mem.readBytes 0x000 40 =
      [0xF0, 0x90, 0x90, 0x90, 0xF0] ++ [0x20, 0x60, 0x20, 0x20, 0x70] ++
      [0xF0, 0x10, 0xF0, 0x80, 0xF0] ++ [0xF0, 0x10, 0xF0, 0x10, 0xF0] ++
      [0x90, 0x90, 0xF0, 0x10, 0x10] ++ [0xF0, 0x80, 0xF0, 0x10, 0xF0] ++
      [0xF0, 0x80, 0xF0, 0x90, 0xF0] ++ [0xF0, 0x10, 0x20, 0x40, 0x40]) ∧
    (t.mem.readBytes 0x028 40 =
      [0xF0, 0x90, 0xF0, 0x90, 0xF0] ++ [0xF0, 0x90, 0xF0, 0x10, 0xF0] ++
      [0xF0, 0x90, 0xF0, 0x90, 0x90] ++ [0xE0, 0x90, 0xE0, 0x90, 0xE0] ++
      [0xF0, 0x80, 0x80, 0x80, 0xF0] ++ [0xE0, 0x90, 0x90, 0x90, 0xE0] ++
      [0xF0, 0x80, 0xF0, 0x80, 0xF0] ++ [0xF0, 0x80, 0xF0, 0x80, 0x80]) ∧
    (∀ j, ∀ h : j < rom.length, t.mem.read (0x200 + j) = rom[j]'h) ∧
    (∀ a, 0x50 ≤ a → a < 0x200 ∨ 0x200 + rom.length ≤ a → t.mem.read a = 0)

/-! ## The invariant -/

/-- The invariant holds after construction (R25, R41, R210). It rests on `pc` being `0x200` before a load, the model's choice
(log 5), and on the zero `sp` and the empty stack and sprite list of the decision D12 (log 6). -/
def Obligations.ResetHasInvariant : Prop := Inv State.reset

/-- Every step keeps the invariant, in the next state and in the state an error leaves (R25, R26, R36, R37, R94, R181). -/
def Obligations.StepKeepsInvariant : Prop :=
  ∀ s : State, Inv s →
    (∀ t, step s = .next t → Inv t) ∧
    (∀ e left, step s = .fault (.error e left) → Inv left ∧ left.halted = true)

/-- A successful load keeps the invariant (R212). -/
def Obligations.LoadKeepsInvariant : Prop :=
  ∀ (rom : List Byte) (s t : State), Inv s → s.load rom = .ok t → Inv t
end

