-- ==== Sys2Proof/Laws/Memory.lean ====
section
/-! SUPPORT. What the memory operations do: a read after a write, and that every operation keeps the canonical form. -/

namespace Sys2Proof.Machine

/-- A cell below every listed one reads as its contents after construction. -/
theorem Memory.read_of_lt (m : Memory) (lo a : Nat) (h : Memory.wfFrom lo m = true) (ha : a < lo) :
    m.read a = initialByte a := by
  induction m generalizing lo with
  | nil => rfl
  | cons c m ih =>
    obtain ⟨b, w⟩ := c
    simp only [Memory.wfFrom, Bool.and_eq_true, decide_eq_true_eq] at h
    have hne : a ≠ b := by omega
    simp only [Memory.read, if_neg hne]
    exact ih (b + 1) h.2 (by omega)

/-- A canonical form from one bound is one from every lower bound. -/
theorem Memory.wfFrom_mono (m : Memory) (lo lo' : Nat) (h : Memory.wfFrom lo m = true) (hl : lo' ≤ lo) :
    Memory.wfFrom lo' m = true := by
  cases m with
  | nil => rfl
  | cons c m =>
    obtain ⟨b, w⟩ := c
    simp only [Memory.wfFrom, Bool.and_eq_true, decide_eq_true_eq] at h ⊢
    refine ⟨⟨⟨by omega, h.1.1.2⟩, h.1.2⟩, h.2⟩

/-- A read after a write, in canonical memory. -/
theorem Memory.read_write_from (m : Memory) (lo a c : Nat) (v : Byte) (h : Memory.wfFrom lo m = true) :
    (m.write a v).read c = if c = a then v else m.read c := by
  induction m generalizing lo with
  | nil =>
    by_cases hv : v = initialByte a <;> by_cases hc : c = a <;> simp_all [Memory.write, Memory.read]
  | cons d m ih =>
    obtain ⟨b, w⟩ := d
    simp only [Memory.wfFrom, Bool.and_eq_true, decide_eq_true_eq] at h
    have below : ∀ k, k ≤ b → Memory.read m k = initialByte k := fun k hk =>
      Memory.read_of_lt m (b + 1) k h.2 (by omega)
    have rest := ih (b + 1) h.2
    by_cases hab : a < b
    · have hne : a ≠ b := by omega
      by_cases hv : v = initialByte a <;> by_cases hc : c = a
      · subst hc; simp [Memory.write, Memory.read, hab, hv, hne, below c (by omega)]
      · simp [Memory.write, Memory.read, hab, hv, hc]
      · subst hc; simp [Memory.write, Memory.read, hab, hv]
      · simp [Memory.write, Memory.read, hab, hv, hc]
    · by_cases heq : a = b
      · subst heq
        by_cases hv : v = initialByte a <;> by_cases hc : c = a
        · subst hc; simp [Memory.write, hv, below c (by omega)]
        · simp [Memory.write, Memory.read, hv, hc]
        · subst hc; simp [Memory.write, Memory.read, hv]
        · simp [Memory.write, Memory.read, hv, hc]
      · simp only [Memory.write, if_neg hab, if_neg heq, Memory.read]
        by_cases hcb : c = b
        · subst hcb; simp [Ne.symm heq]
        · simp [hcb, rest]

/-- A read after a write. -/
theorem Memory.read_write (m : Memory) (a c : Nat) (v : Byte) (h : m.wf = true) :
    (m.write a v).read c = if c = a then v else m.read c :=
  Memory.read_write_from m 0 a c v h

/-- A write inside the array keeps the canonical form from a bound at or below the address. -/
theorem Memory.wfFrom_write (m : Memory) (lo a : Nat) (v : Byte) (h : Memory.wfFrom lo m = true) (hl : lo ≤ a)
    (ha : a ≤ memLast) : Memory.wfFrom lo (m.write a v) = true := by
  induction m generalizing lo with
  | nil =>
    by_cases hv : v = initialByte a <;> simp [Memory.write, Memory.wfFrom, hv, hl, ha]
  | cons d m ih =>
    obtain ⟨b, w⟩ := d
    have h' := h
    simp only [Memory.wfFrom, Bool.and_eq_true, decide_eq_true_eq] at h'
    by_cases hab : a < b
    · by_cases hv : v = initialByte a
      · simpa [Memory.write, hab, hv] using h
      · simp only [Memory.write, if_pos hab, if_neg hv, Memory.wfFrom, Bool.and_eq_true, decide_eq_true_eq]
        exact ⟨⟨⟨hl, ha⟩, hv⟩, ⟨⟨⟨by omega, h'.1.1.2⟩, h'.1.2⟩, h'.2⟩⟩
    · by_cases heq : a = b
      · subst heq
        by_cases hv : v = initialByte a
        · simpa [Memory.write, hv] using Memory.wfFrom_mono m (a + 1) lo h'.2 (by omega)
        · simp only [Memory.write, if_neg hab, if_neg hv, Memory.wfFrom, Bool.and_eq_true,
            decide_eq_true_eq, if_true]
          exact ⟨⟨⟨hl, ha⟩, hv⟩, h'.2⟩
      · simp only [Memory.write, if_neg hab, if_neg heq, Memory.wfFrom, Bool.and_eq_true, decide_eq_true_eq]
        exact ⟨h'.1, ih (b + 1) h'.2 (by omega)⟩

/-- A write inside the array keeps the canonical form. -/
theorem Memory.wf_write (m : Memory) (a : Nat) (v : Byte) (h : m.wf = true) (ha : a ≤ memLast) :
    (m.write a v).wf = true :=
  Memory.wfFrom_write m 0 a v h (by omega) ha

/-- Writing consecutive bytes inside the array keeps the canonical form. -/
theorem Memory.wf_writeBytes (bs : List Byte) (m : Memory) (a : Nat) (h : m.wf = true)
    (ha : a + bs.length ≤ memLast + 1) : (m.writeBytes a bs).wf = true := by
  induction bs generalizing m a with
  | nil => simpa [Memory.writeBytes] using h
  | cons b bs ih =>
    simp only [List.length_cons] at ha
    exact ih _ _ (Memory.wf_write m a b h (by omega)) (by omega)

/-- Reading after consecutive bytes were written inside the array. -/
theorem Memory.read_writeBytes (bs : List Byte) (m : Memory) (a c : Nat) (h : m.wf = true)
    (ha : a + bs.length ≤ memLast + 1) :
    (m.writeBytes a bs).read c = if h : a ≤ c ∧ c - a < bs.length then bs[c - a]'h.2 else m.read c := by
  induction bs generalizing m a with
  | nil => simp [Memory.writeBytes]
  | cons b bs ih =>
    simp only [List.length_cons] at ha
    have step := ih (m.write a b) (a + 1) (Memory.wf_write m a b h (by omega)) (by omega)
    simp only [Memory.writeBytes, step, Memory.read_write m a c b h, List.length_cons]
    by_cases hc : c = a
    · subst hc; simp
    · by_cases hin : a + 1 ≤ c ∧ c - (a + 1) < bs.length
      · have e : c - a = (c - (a + 1)) + 1 := by omega
        have hin' : a ≤ c ∧ c - a < bs.length + 1 := by omega
        rw [dif_pos hin, dif_pos hin']
        simp [e]
      · have hout : ¬ (a ≤ c ∧ c - a < bs.length + 1) := by omega
        rw [dif_neg hin, dif_neg hout, if_neg hc]

/-- Memory at reset is canonical. -/
theorem Memory.wf_reset : State.reset.mem.wf = true := rfl

/-- How many bytes a read of consecutive cells gives. -/
@[simp] theorem Memory.readBytes_length (m : Memory) (base n : Nat) : (m.readBytes base n).length = n := by
  simp [Memory.readBytes]

/-- The bytes a read of consecutive cells gives. -/
@[simp] theorem Memory.readBytes_getElem (m : Memory) (base n k : Nat) (h : k < (m.readBytes base n).length) :
    (m.readBytes base n)[k] = m.read (base + k) := by
  simp [Memory.readBytes]

end Sys2Proof.Machine
end

