-- ==== Sys2Proof/Laws/State.lean ====
section
/-! SUPPORT. One lemma per field per update of the state, true by `rfl`, so that no proof unfolds a record update. -/

namespace Sys2Proof.Machine

/-! ## `setReg` -/

@[simp] theorem State.setReg_I (s : State) (x : Reg) (b : Byte) : (s.setReg x b).I = s.I := rfl
@[simp] theorem State.setReg_pc (s : State) (x : Reg) (b : Byte) : (s.setReg x b).pc = s.pc := rfl
@[simp] theorem State.setReg_sp (s : State) (x : Reg) (b : Byte) : (s.setReg x b).sp = s.sp := rfl
@[simp] theorem State.setReg_stack (s : State) (x : Reg) (b : Byte) : (s.setReg x b).stack = s.stack := rfl
@[simp] theorem State.setReg_DT (s : State) (x : Reg) (b : Byte) : (s.setReg x b).DT = s.DT := rfl
@[simp] theorem State.setReg_ST (s : State) (x : Reg) (b : Byte) : (s.setReg x b).ST = s.ST := rfl
@[simp] theorem State.setReg_mem (s : State) (x : Reg) (b : Byte) : (s.setReg x b).mem = s.mem := rfl
@[simp] theorem State.setReg_sprites (s : State) (x : Reg) (b : Byte) : (s.setReg x b).sprites = s.sprites := rfl
@[simp] theorem State.setReg_ready (s : State) (x : Reg) (b : Byte) : (s.setReg x b).ready = s.ready := rfl
@[simp] theorem State.setReg_halted (s : State) (x : Reg) (b : Byte) : (s.setReg x b).halted = s.halted := rfl
@[simp] theorem State.setReg_keyInputs (s : State) (x : Reg) (b : Byte) : (s.setReg x b).keyInputs = s.keyInputs := rfl
@[simp] theorem State.setReg_keyCount (s : State) (x : Reg) (b : Byte) : (s.setReg x b).keyCount = s.keyCount := rfl
@[simp] theorem State.setReg_rndInputs (s : State) (x : Reg) (b : Byte) : (s.setReg x b).rndInputs = s.rndInputs := rfl
@[simp] theorem State.setReg_drawCount (s : State) (x : Reg) (b : Byte) : (s.setReg x b).drawCount = s.drawCount := rfl
@[simp] theorem State.setReg_directive (s : State) (x : Reg) (b : Byte) : (s.setReg x b).directive = s.directive := rfl

/-! ## `setPc` -/

@[simp] theorem State.setPc_V (s : State) (a : Word) : (s.setPc a).V = s.V := rfl
@[simp] theorem State.setPc_I (s : State) (a : Word) : (s.setPc a).I = s.I := rfl
@[simp] theorem State.setPc_pc (s : State) (a : Word) : (s.setPc a).pc = a := rfl
@[simp] theorem State.setPc_sp (s : State) (a : Word) : (s.setPc a).sp = s.sp := rfl
@[simp] theorem State.setPc_stack (s : State) (a : Word) : (s.setPc a).stack = s.stack := rfl
@[simp] theorem State.setPc_DT (s : State) (a : Word) : (s.setPc a).DT = s.DT := rfl
@[simp] theorem State.setPc_ST (s : State) (a : Word) : (s.setPc a).ST = s.ST := rfl
@[simp] theorem State.setPc_mem (s : State) (a : Word) : (s.setPc a).mem = s.mem := rfl
@[simp] theorem State.setPc_sprites (s : State) (a : Word) : (s.setPc a).sprites = s.sprites := rfl
@[simp] theorem State.setPc_ready (s : State) (a : Word) : (s.setPc a).ready = s.ready := rfl
@[simp] theorem State.setPc_halted (s : State) (a : Word) : (s.setPc a).halted = s.halted := rfl
@[simp] theorem State.setPc_keyInputs (s : State) (a : Word) : (s.setPc a).keyInputs = s.keyInputs := rfl
@[simp] theorem State.setPc_keyCount (s : State) (a : Word) : (s.setPc a).keyCount = s.keyCount := rfl
@[simp] theorem State.setPc_rndInputs (s : State) (a : Word) : (s.setPc a).rndInputs = s.rndInputs := rfl
@[simp] theorem State.setPc_drawCount (s : State) (a : Word) : (s.setPc a).drawCount = s.drawCount := rfl
@[simp] theorem State.setPc_directive (s : State) (a : Word) : (s.setPc a).directive = s.directive := rfl

/-! ## `nextKey` -/

@[simp] theorem State.nextKey_V (s : State) : (s.nextKey).V = s.V := rfl
@[simp] theorem State.nextKey_I (s : State) : (s.nextKey).I = s.I := rfl
@[simp] theorem State.nextKey_pc (s : State) : (s.nextKey).pc = s.pc := rfl
@[simp] theorem State.nextKey_sp (s : State) : (s.nextKey).sp = s.sp := rfl
@[simp] theorem State.nextKey_stack (s : State) : (s.nextKey).stack = s.stack := rfl
@[simp] theorem State.nextKey_DT (s : State) : (s.nextKey).DT = s.DT := rfl
@[simp] theorem State.nextKey_ST (s : State) : (s.nextKey).ST = s.ST := rfl
@[simp] theorem State.nextKey_mem (s : State) : (s.nextKey).mem = s.mem := rfl
@[simp] theorem State.nextKey_sprites (s : State) : (s.nextKey).sprites = s.sprites := rfl
@[simp] theorem State.nextKey_ready (s : State) : (s.nextKey).ready = s.ready := rfl
@[simp] theorem State.nextKey_halted (s : State) : (s.nextKey).halted = s.halted := rfl
@[simp] theorem State.nextKey_keyInputs (s : State) : (s.nextKey).keyInputs = s.keyInputs.tail := rfl
@[simp] theorem State.nextKey_keyCount (s : State) : (s.nextKey).keyCount = s.keyCount + 1 := rfl
@[simp] theorem State.nextKey_rndInputs (s : State) : (s.nextKey).rndInputs = s.rndInputs := rfl
@[simp] theorem State.nextKey_drawCount (s : State) : (s.nextKey).drawCount = s.drawCount := rfl
@[simp] theorem State.nextKey_directive (s : State) : (s.nextKey).directive = s.directive := rfl

/-! ## `place` -/

@[simp] theorem State.place_V (s : State) (p : Sprite) : (s.place p).V = s.V := rfl
@[simp] theorem State.place_I (s : State) (p : Sprite) : (s.place p).I = s.I := rfl
@[simp] theorem State.place_pc (s : State) (p : Sprite) : (s.place p).pc = s.pc := rfl
@[simp] theorem State.place_sp (s : State) (p : Sprite) : (s.place p).sp = s.sp := rfl
@[simp] theorem State.place_stack (s : State) (p : Sprite) : (s.place p).stack = s.stack := rfl
@[simp] theorem State.place_DT (s : State) (p : Sprite) : (s.place p).DT = s.DT := rfl
@[simp] theorem State.place_ST (s : State) (p : Sprite) : (s.place p).ST = s.ST := rfl
@[simp] theorem State.place_mem (s : State) (p : Sprite) : (s.place p).mem = s.mem := rfl
@[simp] theorem State.place_sprites (s : State) (p : Sprite) : (s.place p).sprites = s.sprites ++ [p] := rfl
@[simp] theorem State.place_ready (s : State) (p : Sprite) : (s.place p).ready = s.ready := rfl
@[simp] theorem State.place_halted (s : State) (p : Sprite) : (s.place p).halted = s.halted := rfl
@[simp] theorem State.place_keyInputs (s : State) (p : Sprite) : (s.place p).keyInputs = s.keyInputs := rfl
@[simp] theorem State.place_keyCount (s : State) (p : Sprite) : (s.place p).keyCount = s.keyCount := rfl
@[simp] theorem State.place_rndInputs (s : State) (p : Sprite) : (s.place p).rndInputs = s.rndInputs := rfl
@[simp] theorem State.place_drawCount (s : State) (p : Sprite) : (s.place p).drawCount = s.drawCount := rfl
@[simp] theorem State.place_directive (s : State) (p : Sprite) : (s.place p).directive = .draw (spriteToRects p.bytes p.x p.y) := rfl

/-! ## `beginExecute` -/

@[simp] theorem beginExecute_V (s : State) : (beginExecute s).V = s.V := rfl
@[simp] theorem beginExecute_I (s : State) : (beginExecute s).I = s.I := rfl
@[simp] theorem beginExecute_pc (s : State) : (beginExecute s).pc = s.pc := rfl
@[simp] theorem beginExecute_sp (s : State) : (beginExecute s).sp = s.sp := rfl
@[simp] theorem beginExecute_stack (s : State) : (beginExecute s).stack = s.stack := rfl
@[simp] theorem beginExecute_DT (s : State) : (beginExecute s).DT = tickTimer s.DT := rfl
@[simp] theorem beginExecute_ST (s : State) : (beginExecute s).ST = tickTimer s.ST := rfl
@[simp] theorem beginExecute_mem (s : State) : (beginExecute s).mem = s.mem := rfl
@[simp] theorem beginExecute_sprites (s : State) : (beginExecute s).sprites = s.sprites := rfl
@[simp] theorem beginExecute_ready (s : State) : (beginExecute s).ready = s.ready := rfl
@[simp] theorem beginExecute_halted (s : State) : (beginExecute s).halted = s.halted := rfl
@[simp] theorem beginExecute_keyInputs (s : State) : (beginExecute s).keyInputs = s.keyInputs := rfl
@[simp] theorem beginExecute_keyCount (s : State) : (beginExecute s).keyCount = s.keyCount := rfl
@[simp] theorem beginExecute_rndInputs (s : State) : (beginExecute s).rndInputs = s.rndInputs := rfl
@[simp] theorem beginExecute_drawCount (s : State) : (beginExecute s).drawCount = s.drawCount := rfl
@[simp] theorem beginExecute_directive (s : State) : (beginExecute s).directive = .none := rfl

/-! ## `enableStep` -/

@[simp] theorem enableStep_V (s : State) : (enableStep s).V = s.V := rfl
@[simp] theorem enableStep_I (s : State) : (enableStep s).I = s.I := rfl
@[simp] theorem enableStep_pc (s : State) : (enableStep s).pc = fetchPoint s.pc := rfl
@[simp] theorem enableStep_sp (s : State) : (enableStep s).sp = s.sp := rfl
@[simp] theorem enableStep_stack (s : State) : (enableStep s).stack = s.stack := rfl
@[simp] theorem enableStep_DT (s : State) : (enableStep s).DT = s.DT := rfl
@[simp] theorem enableStep_ST (s : State) : (enableStep s).ST = s.ST := rfl
@[simp] theorem enableStep_mem (s : State) : (enableStep s).mem = s.mem := rfl
@[simp] theorem enableStep_sprites (s : State) : (enableStep s).sprites = s.sprites := rfl
@[simp] theorem enableStep_ready (s : State) : (enableStep s).ready = true := rfl
@[simp] theorem enableStep_halted (s : State) : (enableStep s).halted = false := rfl
@[simp] theorem enableStep_keyInputs (s : State) : (enableStep s).keyInputs = s.keyInputs := rfl
@[simp] theorem enableStep_keyCount (s : State) : (enableStep s).keyCount = s.keyCount := rfl
@[simp] theorem enableStep_rndInputs (s : State) : (enableStep s).rndInputs = s.rndInputs := rfl
@[simp] theorem enableStep_drawCount (s : State) : (enableStep s).drawCount = s.drawCount := rfl
@[simp] theorem enableStep_directive (s : State) : (enableStep s).directive = s.directive := rfl

/-! ## `afterDraw` changes only the draw inputs and their counter -/

@[simp] theorem State.afterDraw_V (s : State) : s.afterDraw.V = s.V := by
  unfold State.afterDraw; split <;> rfl
@[simp] theorem State.afterDraw_I (s : State) : s.afterDraw.I = s.I := by
  unfold State.afterDraw; split <;> rfl
@[simp] theorem State.afterDraw_pc (s : State) : s.afterDraw.pc = s.pc := by
  unfold State.afterDraw; split <;> rfl
@[simp] theorem State.afterDraw_sp (s : State) : s.afterDraw.sp = s.sp := by
  unfold State.afterDraw; split <;> rfl
@[simp] theorem State.afterDraw_stack (s : State) : s.afterDraw.stack = s.stack := by
  unfold State.afterDraw; split <;> rfl
@[simp] theorem State.afterDraw_DT (s : State) : s.afterDraw.DT = s.DT := by
  unfold State.afterDraw; split <;> rfl
@[simp] theorem State.afterDraw_ST (s : State) : s.afterDraw.ST = s.ST := by
  unfold State.afterDraw; split <;> rfl
@[simp] theorem State.afterDraw_mem (s : State) : s.afterDraw.mem = s.mem := by
  unfold State.afterDraw; split <;> rfl
@[simp] theorem State.afterDraw_sprites (s : State) : s.afterDraw.sprites = s.sprites := by
  unfold State.afterDraw; split <;> rfl
@[simp] theorem State.afterDraw_ready (s : State) : s.afterDraw.ready = s.ready := by
  unfold State.afterDraw; split <;> rfl
@[simp] theorem State.afterDraw_halted (s : State) : s.afterDraw.halted = s.halted := by
  unfold State.afterDraw; split <;> rfl
@[simp] theorem State.afterDraw_keyInputs (s : State) : s.afterDraw.keyInputs = s.keyInputs := by
  unfold State.afterDraw; split <;> rfl
@[simp] theorem State.afterDraw_keyCount (s : State) : s.afterDraw.keyCount = s.keyCount := by
  unfold State.afterDraw; split <;> rfl
@[simp] theorem State.afterDraw_directive (s : State) : s.afterDraw.directive = s.directive := by
  unfold State.afterDraw; split <;> rfl

/-! ## `skipIf` changes only `pc` -/

@[simp] theorem State.skipIf_V (s : State) (c : Bool) : (s.skipIf c).V = s.V := by
  cases c <;> rfl
@[simp] theorem State.skipIf_I (s : State) (c : Bool) : (s.skipIf c).I = s.I := by
  cases c <;> rfl
@[simp] theorem State.skipIf_sp (s : State) (c : Bool) : (s.skipIf c).sp = s.sp := by
  cases c <;> rfl
@[simp] theorem State.skipIf_stack (s : State) (c : Bool) : (s.skipIf c).stack = s.stack := by
  cases c <;> rfl
@[simp] theorem State.skipIf_DT (s : State) (c : Bool) : (s.skipIf c).DT = s.DT := by
  cases c <;> rfl
@[simp] theorem State.skipIf_ST (s : State) (c : Bool) : (s.skipIf c).ST = s.ST := by
  cases c <;> rfl
@[simp] theorem State.skipIf_mem (s : State) (c : Bool) : (s.skipIf c).mem = s.mem := by
  cases c <;> rfl
@[simp] theorem State.skipIf_sprites (s : State) (c : Bool) : (s.skipIf c).sprites = s.sprites := by
  cases c <;> rfl
@[simp] theorem State.skipIf_ready (s : State) (c : Bool) : (s.skipIf c).ready = s.ready := by
  cases c <;> rfl
@[simp] theorem State.skipIf_halted (s : State) (c : Bool) : (s.skipIf c).halted = s.halted := by
  cases c <;> rfl
@[simp] theorem State.skipIf_keyInputs (s : State) (c : Bool) : (s.skipIf c).keyInputs = s.keyInputs := by
  cases c <;> rfl
@[simp] theorem State.skipIf_keyCount (s : State) (c : Bool) : (s.skipIf c).keyCount = s.keyCount := by
  cases c <;> rfl
@[simp] theorem State.skipIf_rndInputs (s : State) (c : Bool) : (s.skipIf c).rndInputs = s.rndInputs := by
  cases c <;> rfl
@[simp] theorem State.skipIf_drawCount (s : State) (c : Bool) : (s.skipIf c).drawCount = s.drawCount := by
  cases c <;> rfl
@[simp] theorem State.skipIf_directive (s : State) (c : Bool) : (s.skipIf c).directive = s.directive := by
  cases c <;> rfl

/-! ## Registers -/

/-- A read after a write. -/
theorem State.setReg_reg (s : State) (x r : Reg) (b : Byte) :
    (s.setReg x b).reg r = if r = x then b else s.reg r := by
  by_cases h : r = x
  · subst h; simp [State.reg, State.setReg]
  · have : x.toNat ≠ r.toNat := fun e => h (BitVec.eq_of_toNat_eq e.symm)
    simp [State.reg, State.setReg, h, this]

@[simp] theorem State.setReg_reg_self (s : State) (x : Reg) (b : Byte) : (s.setReg x b).reg x = b := by
  simp [State.setReg_reg]

theorem State.setReg_reg_of_ne (s : State) {x r : Reg} (b : Byte) (h : r ≠ x) : (s.setReg x b).reg r = s.reg r := by
  simp [State.setReg_reg, h]

@[simp] theorem State.setPc_reg (s : State) (a : Word) (r : Reg) : (s.setPc a).reg r = s.reg r := rfl

@[simp] theorem State.nextKey_reg (s : State) (r : Reg) : s.nextKey.reg r = s.reg r := rfl

@[simp] theorem beginExecute_reg (s : State) (r : Reg) : (beginExecute s).reg r = s.reg r := rfl

@[simp] theorem State.place_reg (s : State) (p : Sprite) (r : Reg) : (s.place p).reg r = s.reg r := rfl

@[simp] theorem State.skipIf_reg (s : State) (c : Bool) (r : Reg) : (s.skipIf c).reg r = s.reg r := by
  cases c <;> rfl

@[simp] theorem State.afterDraw_reg (s : State) (r : Reg) : s.afterDraw.reg r = s.reg r := by
  unfold State.afterDraw; split <;> rfl

/-- Two states whose registers read alike hold the same register file. -/
theorem State.V_ext (s t : State) (h : ∀ r, s.reg r = t.reg r) : s.V = t.V := by
  apply Vector.ext
  intro i hi
  have := h (BitVec.ofNat 4 i)
  simpa [State.reg, Nat.mod_eq_of_lt hi] using this

end Sys2Proof.Machine
end

