-- ==== Sys2Proof/Laws/Ops.lean ====
section
/-! SUPPORT. One lemma for each shared operation that says everything it can do. -/

namespace Sys2Proof.Machine

/-! ## The bounds check of data accesses (R55) -/

/-- Every address is in range. -/
theorem firstOutOfRange_none (base n : Nat) (h : base + n ≤ memLast + 1 ∨ n = 0) : firstOutOfRange base n = none := by
  simp only [firstOutOfRange, List.find?_eq_none, List.mem_map, List.mem_range, decide_eq_true_eq]
  rintro a ⟨k, hk, rfl⟩
  omega

/-- The lowest address out of range. -/
theorem firstOutOfRange_some (base n : Nat) (h : memLast + 1 < base + n) (hn : 0 < n) :
    firstOutOfRange base n = some (max base (memLast + 1)) := by
  simp only [firstOutOfRange]
  rw [List.find?_eq_some_iff_append]
  refine ⟨by simp, ?_⟩
  have hk : max base (memLast + 1) - base < n := by omega
  refine ⟨(List.range (max base (memLast + 1) - base)).map (base + ·),
    (List.range' (max base (memLast + 1) - base + 1) (n - (max base (memLast + 1) - base) - 1)).map (base + ·), ?_, ?_⟩
  · have e : base + (max base (memLast + 1) - base) = max base (memLast + 1) := by omega
    have split : List.range n = List.range (max base (memLast + 1) - base) ++
        (max base (memLast + 1) - base) ::
        List.range' (max base (memLast + 1) - base + 1) (n - (max base (memLast + 1) - base) - 1) := by
      have : n = (max base (memLast + 1) - base) + ((n - (max base (memLast + 1) - base) - 1) + 1) := by omega
      conv => lhs; rw [this, List.range_eq_range', ← List.range'_append_1]
      rw [List.range_eq_range', Nat.zero_add, List.range'_succ]
    rw [split]
    simp [e]
  · intro a ha
    simp only [List.mem_map, List.mem_range] at ha
    obtain ⟨k, hk', rfl⟩ := ha
    simp only [Bool.not_eq_true', decide_eq_false_iff_not]
    omega

/-- A data access inside the array has its effect. -/
theorem withCells_inside (s : State) (base n : Nat) (body : Outcome) (h : base + n ≤ memLast + 1 ∨ n = 0) :
    withCells s base n body = body := by
  simp [withCells, firstOutOfRange_none base n h]

/-- A data access that leaves the array raises for the lowest address outside it. -/
theorem withCells_outside (s : State) (base n : Nat) (body : Outcome) (h : memLast + 1 < base + n) (hn : 0 < n) :
    withCells s base n body = raise (.memoryOutOfRange (max base (memLast + 1))) s := by
  simp [withCells, firstOutOfRange_some base n h hn]

/-- Everything a data access can do. -/
theorem withCells_cases (s : State) (base n : Nat) (body : Outcome) :
    ((base + n ≤ memLast + 1 ∨ n = 0) ∧ withCells s base n body = body) ∨
    (memLast + 1 < base + n ∧ 0 < n ∧
      withCells s base n body = raise (.memoryOutOfRange (max base (memLast + 1))) s) := by
  by_cases h : base + n ≤ memLast + 1 ∨ n = 0
  · exact .inl ⟨h, withCells_inside s base n body h⟩
  · have h1 : memLast + 1 < base + n := by omega
    have h2 : 0 < n := by omega
    exact .inr ⟨h1, h2, withCells_outside s base n body h1 h2⟩

/-! ## Errors -/

/-- An error never answers a next state. -/
theorem raise_ne_next (e : Error) (s t : State) : raise e s ≠ .next t := by simp [raise]

/-! ## The stack -/

/-- Everything a push can do. -/
theorem State.push_cases (s : State) (depth : Nat) (v : Word) :
    (s.stack.length < depth ∧ s.push depth v = .ok { s with stack := s.stack ++ [v], sp := s.sp + 1 }) ∨
    (depth ≤ s.stack.length ∧ s.push depth v = .error (.stackOverflow s.pc)) := by
  by_cases h : s.stack.length < depth
  · exact .inl ⟨h, by simp [State.push, h]⟩
  · exact .inr ⟨by omega, by simp [State.push, h]⟩

/-- Everything a pop can do. -/
theorem State.pop_cases (s : State) :
    (∃ rest v, s.stack = rest ++ [v] ∧ s.pop = .ok (v, { s with stack := rest, sp := s.sp - 1 })) ∨
    (s.stack = [] ∧ s.pop = .error (.addressOutOfBounds s.pc)) := by
  by_cases h : s.stack = []
  · exact .inr ⟨h, by simp [State.pop, h]⟩
  · refine .inl ⟨s.stack.dropLast, s.stack.getLast h, (List.dropLast_append_getLast h).symm, ?_⟩
    simp [State.pop, List.getLast?_eq_getLast_of_ne_nil h]

/-! ## Registers -/

/-- Both writes of a flag-writing instruction, by the register read afterwards. -/
theorem writeback_reg (o : Config.FlagOrder) (x r : Reg) (result flag : Byte) (s : State) :
    (writeback o x result flag s).reg r =
      match o with
      | .flagLast => if r = vf then flag else if r = x then result else s.reg r
      | .resultLast => if r = x then result else if r = vf then flag else s.reg r := by
  cases o <;> simp [writeback, State.setReg_reg]

/-- The writes of a flag-writing instruction change registers only. -/
theorem writeback_frame (o : Config.FlagOrder) (x : Reg) (result flag : Byte) (s : State) :
    writeback o x result flag s = { s with V := (writeback o x result flag s).V } := by
  cases o <;> rfl

/-- The registers after a block load. -/
theorem State.loadRegs_reg (s : State) (base n : Nat) (hn : n ≤ 16) (r : Reg) :
    (s.loadRegs base n).reg r = if r.toNat < n then s.mem.read (base + r.toNat) else s.reg r := by
  induction n with
  | zero => simp [State.loadRegs]
  | succ k ih =>
    have hk : (BitVec.ofNat 4 k).toNat = k := by simp; omega
    rw [State.loadRegs, State.setReg_reg, ih (by omega)]
    by_cases h : r = BitVec.ofNat 4 k
    · have : r.toNat = k := by rw [h, hk]
      simp [h, hk]
    · have hne : r.toNat ≠ k := fun e => h (BitVec.eq_of_toNat_eq (by rw [e, hk]))
      rw [if_neg h]
      by_cases hlt : r.toNat < k
      · rw [if_pos hlt, if_pos (by omega)]
      · rw [if_neg hlt, if_neg (by omega)]

/-- A block load changes registers only. -/
theorem State.loadRegs_frame (s : State) (base n : Nat) :
    s.loadRegs base n = { s with V := (s.loadRegs base n).V } := by
  induction n with
  | zero => rfl
  | succ k ih => rw [State.loadRegs, ih]; rfl

/-- How many register values a block store takes. -/
@[simp] theorem State.regs_length (s : State) (n : Nat) : (s.regs n).length = n := by simp [State.regs]

/-- The register values a block store takes. -/
@[simp] theorem State.regs_getElem (s : State) (n k : Nat) (h : k < (s.regs n).length) :
    (s.regs n)[k] = s.reg (BitVec.ofNat 4 k) := by simp [State.regs]

/-- The register gate answers exactly for the indices `0..15`. -/
theorem State.getV_reg (s : State) (x : Reg) : s.getV x.toNat = .ok (s.reg x) := by
  have := x.isLt
  simp [State.getV, numV]
  omega

/-! ## Load -/

/-- Everything a load can do. -/
theorem State.load_cases (rom : List Byte) (s : State) :
    (rom.length ≤ romMax ∧ s.load rom =
      .ok { s with mem := s.mem.writeBytes progOrigin rom, pc := BitVec.ofNat 16 progOrigin, ready := true }) ∨
    (romMax < rom.length ∧ s.load rom = .error (.romTooLarge (rom.length - romMax))) := by
  by_cases h : rom.length > romMax
  · exact .inr ⟨h, by simp [State.load, h]⟩
  · exact .inl ⟨by omega, by simp [State.load, h]⟩

end Sys2Proof.Machine
end

