-- ==== Sys2Proof/Laws/Cycle.lean ====
section
/-! SUPPORT. What one step can do, said once (40_step_cycle.md R90). -/

namespace Sys2Proof.Machine

/-- A fetch is legal iff `pc` is in the range of R54. -/
theorem fetchable_iff (pc : Word) : fetchable pc = true ↔ 0x200 ≤ pc.toNat ∧ pc.toNat < 0xFFF := by
  unfold fetchable progOrigin fetchLimit
  simp

/-- Everything a step can do. -/
theorem step_cases (s : State) :
    (s.halted = true ∧ step s = .fault .halted) ∨
    (s.halted = false ∧ s.ready = false ∧ step s = .fault .notReady) ∨
    (s.halted = false ∧ s.ready = true ∧ fetchable s.pc = false ∧ step s = raise (.addressOutOfBounds s.pc) s) ∨
    (∃ bad, s.halted = false ∧ s.ready = true ∧ fetchable s.pc = true ∧
      decode (opcodeAt s.mem s.pc.toNat) = .invalid bad ∧
      step s = raise (.invalidInstruction bad) (beginExecute (s.setPc (s.pc + 2)))) ∨
    (∃ i, s.halted = false ∧ s.ready = true ∧ fetchable s.pc = true ∧
      decode (opcodeAt s.mem s.pc.toNat) = .valid i ∧
      step s = endStep (exec i (beginExecute (s.setPc (s.pc + 2))))) := by
  cases hh : s.halted with
  | true => simp [step, stepBlocked, hh]
  | false =>
    cases hr : s.ready with
    | false => simp [step, stepBlocked, hh, hr]
    | true =>
      cases hf : fetchable s.pc with
      | false => simp [step, stepBlocked, fetch, hh, hr, hf]
      | true =>
        cases hd : decode (opcodeAt s.mem s.pc.toNat) with
        | valid i => simp [step, stepBlocked, fetch, hh, hr, hf, hd]
        | invalid bad => simp [step, stepBlocked, fetch, hh, hr, hf, hd]

/-- A step that answers a next state ran an instruction. -/
theorem step_next (s t : State) (h : step s = .next t) :
    ∃ i u, s.halted = false ∧ s.ready = true ∧ fetchable s.pc = true ∧
      decode (opcodeAt s.mem s.pc.toNat) = .valid i ∧
      exec i (beginExecute (s.setPc (s.pc + 2))) = .next u ∧ t = u.nextKey := by
  rcases step_cases s with ⟨_, e⟩ | ⟨_, _, e⟩ | ⟨_, _, _, e⟩ | ⟨_, _, _, _, _, e⟩ | ⟨i, hh, hr, hf, hd, e⟩
  · simp [e] at h
  · simp [e] at h
  · simp [e, raise] at h
  · simp [e, raise] at h
  · rw [e] at h
    cases hx : exec i (beginExecute (s.setPc (s.pc + 2))) with
    | next u => rw [hx] at h; cases h; exact ⟨i, u, hh, hr, hf, hd, hx, rfl⟩
    | fault r => rw [hx] at h; cases h
    | refused r => rw [hx] at h; cases h

end Sys2Proof.Machine
end

