-- ==== Sys2Proof/Laws/Fields.lean ====
section
/-! SUPPORT. The fields of an opcode (30_encoding.md R71) and the encoding formats as numbers, and each format's fields
read back. -/

namespace Sys2Proof

/-- The value of the family nibble. -/
theorem opFamily_toNat (op : Word) : (opFamily op).toNat = op.toNat / 4096 := by
  simp [opFamily, Nat.shiftRight_eq_div_pow]; omega

/-- The value of `x`. -/
theorem opX_toNat (op : Word) : (opX op).toNat = op.toNat / 256 % 16 := by simp [opX, Nat.shiftRight_eq_div_pow]

/-- The value of `y`. -/
theorem opY_toNat (op : Word) : (opY op).toNat = op.toNat / 16 % 16 := by simp [opY, Nat.shiftRight_eq_div_pow]

/-- The value of `n`. -/
theorem opN_toNat (op : Word) : (opN op).toNat = op.toNat % 16 := by simp [opN]

/-- The value of `kk`. -/
theorem opKK_toNat (op : Word) : (opKK op).toNat = op.toNat % 256 := by simp [opKK]

/-- The value of `nnn`. -/
theorem opNNN_toNat (op : Word) : (opNNN op).toNat = op.toNat % 4096 := by simp [opNNN]

/-- Format `NNN` as a number. -/
theorem encodeNNN_toNat (f : BitVec 4) (nnn : Addr) : (encodeNNN f nnn).toNat = f.toNat * 4096 + nnn.toNat := by
  unfold encodeNNN
  rw [BitVec.toNat_append, ← Nat.shiftLeft_add_eq_or_of_lt (by omega)]
  simp [Nat.shiftLeft_eq]

/-- Format `XKK` as a number. -/
theorem encodeXKK_toNat (f : BitVec 4) (x : Reg) (kk : Byte) :
    (encodeXKK f x kk).toNat = f.toNat * 4096 + x.toNat * 256 + kk.toNat := by
  unfold encodeXKK
  rw [BitVec.toNat_append, BitVec.toNat_append, ← Nat.shiftLeft_add_eq_or_of_lt (by omega),
    ← Nat.shiftLeft_add_eq_or_of_lt (by omega)]
  simp [Nat.shiftLeft_eq]
  omega

/-- Format `X` as a number. -/
theorem encodeX_toNat (f : BitVec 4) (x : Reg) (sub : Byte) :
    (encodeX f x sub).toNat = f.toNat * 4096 + x.toNat * 256 + sub.toNat := encodeXKK_toNat f x sub

/-- Formats `XY` and `XYN` as a number. -/
theorem encodeXYN_toNat (f : BitVec 4) (x y : Reg) (n : BitVec 4) :
    (encodeXYN f x y n).toNat = f.toNat * 4096 + x.toNat * 256 + y.toNat * 16 + n.toNat := by
  unfold encodeXYN
  rw [BitVec.toNat_append, BitVec.toNat_append, BitVec.toNat_append, ← Nat.shiftLeft_add_eq_or_of_lt (by omega),
    ← Nat.shiftLeft_add_eq_or_of_lt (by omega), ← Nat.shiftLeft_add_eq_or_of_lt (by omega)]
  simp [Nat.shiftLeft_eq]
  omega

/-- The fields of format `NNN`. -/
theorem encodeNNN_fields (f : BitVec 4) (nnn : Addr) :
    opFamily (encodeNNN f nnn) = f ∧ opNNN (encodeNNN f nnn) = nnn :=
  ⟨BitVec.eq_of_toNat_eq (by rw [opFamily_toNat, encodeNNN_toNat]; omega),
   BitVec.eq_of_toNat_eq (by rw [opNNN_toNat, encodeNNN_toNat]; omega)⟩

/-- The fields of format `XKK`. -/
theorem encodeXKK_fields (f : BitVec 4) (x : Reg) (kk : Byte) :
    opFamily (encodeXKK f x kk) = f ∧ opX (encodeXKK f x kk) = x ∧ opKK (encodeXKK f x kk) = kk :=
  ⟨BitVec.eq_of_toNat_eq (by rw [opFamily_toNat, encodeXKK_toNat]; omega),
   BitVec.eq_of_toNat_eq (by rw [opX_toNat, encodeXKK_toNat]; omega),
   BitVec.eq_of_toNat_eq (by rw [opKK_toNat, encodeXKK_toNat]; omega)⟩

/-- The fields of format `X`. -/
theorem encodeX_fields (f : BitVec 4) (x : Reg) (sub : Byte) :
    opFamily (encodeX f x sub) = f ∧ opX (encodeX f x sub) = x ∧ opKK (encodeX f x sub) = sub :=
  encodeXKK_fields f x sub

/-- The fields of formats `XY` and `XYN`. -/
theorem encodeXYN_fields (f : BitVec 4) (x y : Reg) (n : BitVec 4) :
    opFamily (encodeXYN f x y n) = f ∧ opX (encodeXYN f x y n) = x ∧ opY (encodeXYN f x y n) = y ∧
      opN (encodeXYN f x y n) = n :=
  ⟨BitVec.eq_of_toNat_eq (by rw [opFamily_toNat, encodeXYN_toNat]; omega),
   BitVec.eq_of_toNat_eq (by rw [opX_toNat, encodeXYN_toNat]; omega),
   BitVec.eq_of_toNat_eq (by rw [opY_toNat, encodeXYN_toNat]; omega),
   BitVec.eq_of_toNat_eq (by rw [opN_toNat, encodeXYN_toNat]; omega)⟩

end Sys2Proof
end

