-- ==== Sys2Proof/Laws/Operands.lean ====
section
/-! SUPPORT. One lemma for each operand form, flag operation and display operation, saying everything it can do. -/

namespace Sys2Proof.Machine

/-- Everything a draw leaves: the next byte is consumed or the free counter advances, nothing else. -/
theorem State.afterDraw_frame (s : State) :
    s.afterDraw = { s with rndInputs := s.afterDraw.rndInputs, drawCount := s.afterDraw.drawCount } := by
  unfold State.afterDraw
  split <;> rfl

/-- A skip moves `pc` by 0 or by 2. -/
theorem State.skipIf_cases (s : State) (taken : Bool) :
    (taken = true ∧ s.skipIf taken = s.setPc (s.pc + 2)) ∨ (taken = false ∧ s.skipIf taken = s) := by
  cases taken
  · exact .inr ⟨rfl, rfl⟩
  · exact .inl ⟨rfl, rfl⟩

/-- When a key comparison holds. -/
theorem State.keyMatches_iff (s : State) (x : Reg) :
    s.keyMatches x = true ↔ ∃ k, s.key = some k ∧ k.setWidth 8 = s.reg x := by
  unfold State.keyMatches
  split <;> simp [*]

/-- What the glyph lookup answers. -/
theorem glyphAddr_cases (d : Byte) :
    (d.toNat ≤ 15 ∧ glyphAddr d = some (BitVec.ofNat 16 (5 * d.toNat))) ∨ (15 < d.toNat ∧ glyphAddr d = none) := by
  by_cases h : d.toNat ≤ 15
  · exact .inl ⟨h, by simp [glyphAddr, h]⟩
  · exact .inr ⟨by omega, by simp [glyphAddr, h]⟩

/-- A shift's writes, when the model clears VF on a tested 0. -/
theorem shiftWriteback_zero (p : Config.Params) (h : p.shiftVfClear = .zero) (x : Reg) (result flag : Byte) (s : State) :
    shiftWriteback p x result flag s = writeback p.flagOrder x result flag s := by simp [shiftWriteback, h]

/-- The registers after a shift's writes: both writes, or the result alone where VF is kept. -/
theorem shiftWriteback_reg (p : Config.Params) (x r : Reg) (result flag : Byte) (s : State) :
    (shiftWriteback p x result flag s).reg r =
      if flag = 1 ∨ p.shiftVfClear = .zero then (writeback p.flagOrder x result flag s).reg r
      else if r = x then result else s.reg r := by
  unfold shiftWriteback
  split
  · rfl
  · exact State.setReg_reg s x r result

/-- A Draw that completes appended its sprite. -/
theorem execDraw_next (x y : Reg) (n : Nat) (s t : State) (h : execDraw x y n s = .next t) :
    t = s.place (s.spriteAt x y n) := by
  unfold execDraw at h
  split at h
  · exact absurd h (raise_ne_next _ _ _)
  · rcases withCells_cases s s.base n (.next (s.place (s.spriteAt x y n))) with ⟨_, e⟩ | ⟨_, _, e⟩ <;> rw [e] at h
    · cases h
      rfl
    · exact absurd h (raise_ne_next _ _ _)

/-- A shift changes registers only. -/
theorem shiftWriteback_frame (p : Config.Params) (x : Reg) (result flag : Byte) (s : State) :
    shiftWriteback p x result flag s = { s with V := (shiftWriteback p x result flag s).V } := by
  unfold shiftWriteback
  split
  · exact writeback_frame _ _ _ _ _
  · rfl

/-- Everything the write of a non-carrying AddByte can do. -/
theorem addByteNoCarry_cases (p : Config.Params) (x : Reg) (result : Byte) (s : State) :
    (p.addByteVfNoCarry = .any ∧ addByteNoCarry p x result s = writeback p.flagOrder x result s.draw8 s.afterDraw) ∨
    (p.addByteVfNoCarry = .unchanged ∧ addByteNoCarry p x result s = s.setReg x result) ∨
    (p.addByteVfNoCarry = .zero ∧ addByteNoCarry p x result s = writeback p.flagOrder x result 0 s) := by
  cases h : p.addByteVfNoCarry <;> simp [addByteNoCarry, h]

/-- Everything a store through `I` can do. -/
theorem storeAtI_cases (bytes : List Byte) (s : State) :
    ((s.base + bytes.length ≤ memLast + 1 ∨ bytes.length = 0) ∧
      storeAtI bytes s = .next { s with mem := s.mem.writeBytes s.base bytes }) ∨
    (memLast + 1 < s.base + bytes.length ∧ 0 < bytes.length ∧
      storeAtI bytes s = raise (.memoryOutOfRange (max s.base (memLast + 1))) s) := by
  unfold storeAtI
  by_cases h : memLast + 1 < s.base + bytes.length ∧ 0 < bytes.length
  · exact .inr ⟨h.1, h.2, withCells_outside _ _ _ _ h.1 h.2⟩
  · exact .inl ⟨by omega, withCells_inside _ _ _ _ (by omega)⟩

/-- The rectangles of one row. -/
theorem mem_rowRects (b : Byte) (x0 y : Nat) (q : Rect) :
    q ∈ rowRects b x0 y ↔ ∃ c, c < 8 ∧ b.getLsbD (7 - c) = true ∧ q = ⟨x0 + c, y, 1, 1⟩ := by
  simp only [rowRects, List.mem_filterMap, List.mem_range, Option.ite_none_right_eq_some, Option.some.injEq]
  exact ⟨fun ⟨c, h, h1, h2⟩ => ⟨c, h, h1, h2.symm⟩, fun ⟨c, h, h1, h2⟩ => ⟨c, h, h1, h2.symm⟩⟩

/-- A row has at most 8 rectangles. -/
theorem rowRects_length (b : Byte) (x0 y : Nat) : (rowRects b x0 y).length ≤ 8 := by
  have h := List.length_filterMap_le
    (fun c => if b.getLsbD (7 - c) then some (⟨x0 + c, y, 1, 1⟩ : Rect) else none) (List.range 8)
  rwa [List.length_range] at h

/-- A timer tick is a saturating decrement. -/
theorem tickTimer_eq (t : Byte) : tickTimer t = BitVec.ofNat 8 (t.toNat - 1) := by
  revert t
  decide

end Sys2Proof.Machine
end

