-- ==== Sys2Proof/Laws/PerInstr.lean ====
section
/-! SUPPORT. Statements for all instructions, one lemma per constructor: the encoding of every well-formed instruction
lies in the row of R75 that bears its name. -/

namespace Sys2Proof

theorem and_nibble_ones (f : BitVec 4) : f &&& 0xF#4 = f := BitVec.and_allOnes (x := f)

theorem and_byte_ones (b : Byte) : b &&& 0xFF#8 = b := BitVec.and_allOnes (x := b)

/-- The high nibble of format `NNN`. -/
theorem encodeNNN_mask (f : BitVec 4) (nnn : Addr) : encodeNNN f nnn &&& 0xF000#16 = f ++ 0#12 := by
  refine (BitVec.and_append (x₁ := f) (x₂ := 0xF#4) (y₁ := nnn) (y₂ := 0#12)).trans ?_
  rw [and_nibble_ones, BitVec.and_zero]

/-- The high nibble of format `XKK`. -/
theorem encodeXKK_mask (f : BitVec 4) (x : Reg) (kk : Byte) :
    encodeXKK f x kk &&& 0xF000#16 = f ++ 0#4 ++ 0#8 := by
  refine (BitVec.and_append (x₁ := f ++ x) (x₂ := 0xF#4 ++ 0#4) (y₁ := kk) (y₂ := 0#8)).trans ?_
  rw [BitVec.and_append, and_nibble_ones, BitVec.and_zero, BitVec.and_zero]

/-- The high nibble of format `XYN`. -/
theorem encodeXYN_mask_high (f : BitVec 4) (x y : Reg) (n : BitVec 4) :
    encodeXYN f x y n &&& 0xF000#16 = f ++ 0#4 ++ 0#4 ++ 0#4 := by
  refine (BitVec.and_append (x₁ := f ++ x ++ y) (x₂ := 0xF#4 ++ 0#4 ++ 0#4) (y₁ := n) (y₂ := 0#4)).trans ?_
  rw [BitVec.and_append, BitVec.and_append, and_nibble_ones, BitVec.and_zero, BitVec.and_zero, BitVec.and_zero]

/-- The high and the low nibble of format `XY`. -/
theorem encodeXYN_mask (f : BitVec 4) (x y : Reg) (n : BitVec 4) :
    encodeXYN f x y n &&& 0xF00F#16 = f ++ 0#4 ++ 0#4 ++ n := by
  refine (BitVec.and_append (x₁ := f ++ x ++ y) (x₂ := 0xF#4 ++ 0#4 ++ 0#4) (y₁ := n) (y₂ := 0xF#4)).trans ?_
  rw [BitVec.and_append, BitVec.and_append, and_nibble_ones, and_nibble_ones, BitVec.and_zero, BitVec.and_zero]

/-- The high nibble and the low byte of format `X`. -/
theorem encodeX_mask (f : BitVec 4) (x : Reg) (sub : Byte) :
    encodeX f x sub &&& 0xF0FF#16 = f ++ 0#4 ++ sub := by
  refine (BitVec.and_append (x₁ := f ++ x) (x₂ := 0xF#4 ++ 0#4) (y₁ := sub) (y₂ := 0xFF#8)).trans ?_
  rw [BitVec.and_append, and_nibble_ones, and_byte_ones, BitVec.and_zero]

namespace Laws.EncodedInRow

/-- Some row of R75 bears the instruction's name and is selected by its encoding. -/
def Statement (i : Instr) : Prop :=
  i.WellFormed → ∃ r ∈ opcodeMap, r.variant = i.mnemonic ∧ r.selects (encode i) = true

/-- The form the lemmas below use: the row, and the masked encoding. -/
theorem of_row (i : Instr) (r : OpcodeRow) (hr : r ∈ opcodeMap) (hv : r.variant = i.mnemonic)
    (he : encode i &&& r.mask = r.bits) : Statement i :=
  fun _ => ⟨r, hr, hv, by simp [OpcodeRow.selects, he]⟩

theorem clearScreen : Statement (.clearScreen) :=
  of_row _ ⟨"ClearScreen", 0x00E0#16, 0xFFFF#16⟩ (by decide) rfl (rfl)

theorem ret : Statement (.ret) :=
  of_row _ ⟨"Return", 0x00EE#16, 0xFFFF#16⟩ (by decide) rfl (rfl)

theorem jump (nnn : Addr) : Statement (.jump nnn) :=
  of_row _ ⟨"Jump", 0x1000#16, 0xF000#16⟩ (by decide) rfl (encodeNNN_mask 0x1#4 nnn)

theorem call (nnn : Addr) : Statement (.call nnn) :=
  of_row _ ⟨"Call", 0x2000#16, 0xF000#16⟩ (by decide) rfl (encodeNNN_mask 0x2#4 nnn)

theorem skipEqualByte (x : Reg) (kk : Byte) : Statement (.skipEqualByte x kk) :=
  of_row _ ⟨"SkipEqualByte", 0x3000#16, 0xF000#16⟩ (by decide) rfl (encodeXKK_mask 0x3#4 x kk)

theorem skipNotEqualByte (x : Reg) (kk : Byte) : Statement (.skipNotEqualByte x kk) :=
  of_row _ ⟨"SkipNotEqualByte", 0x4000#16, 0xF000#16⟩ (by decide) rfl (encodeXKK_mask 0x4#4 x kk)

theorem skipEqualReg (x y : Reg) : Statement (.skipEqualReg x y) :=
  of_row _ ⟨"SkipEqualReg", 0x5000#16, 0xF00F#16⟩ (by decide) rfl (encodeXYN_mask 0x5#4 x y 0x0#4)

theorem loadByte (x : Reg) (kk : Byte) : Statement (.loadByte x kk) :=
  of_row _ ⟨"LoadByte", 0x6000#16, 0xF000#16⟩ (by decide) rfl (encodeXKK_mask 0x6#4 x kk)

theorem addByte (x : Reg) (kk : Byte) : Statement (.addByte x kk) :=
  of_row _ ⟨"AddByte", 0x7000#16, 0xF000#16⟩ (by decide) rfl (encodeXKK_mask 0x7#4 x kk)

theorem loadReg (x y : Reg) : Statement (.loadReg x y) :=
  of_row _ ⟨"LoadReg", 0x8000#16, 0xF00F#16⟩ (by decide) rfl (encodeXYN_mask 0x8#4 x y 0x0#4)

theorem or (x y : Reg) : Statement (.or x y) :=
  of_row _ ⟨"Or", 0x8001#16, 0xF00F#16⟩ (by decide) rfl (encodeXYN_mask 0x8#4 x y 0x1#4)

theorem and (x y : Reg) : Statement (.and x y) :=
  of_row _ ⟨"And", 0x8002#16, 0xF00F#16⟩ (by decide) rfl (encodeXYN_mask 0x8#4 x y 0x2#4)

theorem xor (x y : Reg) : Statement (.xor x y) :=
  of_row _ ⟨"Xor", 0x8003#16, 0xF00F#16⟩ (by decide) rfl (encodeXYN_mask 0x8#4 x y 0x3#4)

theorem addReg (x y : Reg) : Statement (.addReg x y) :=
  of_row _ ⟨"AddReg", 0x8004#16, 0xF00F#16⟩ (by decide) rfl (encodeXYN_mask 0x8#4 x y 0x4#4)

theorem subReg (x y : Reg) : Statement (.subReg x y) :=
  of_row _ ⟨"SubReg", 0x8005#16, 0xF00F#16⟩ (by decide) rfl (encodeXYN_mask 0x8#4 x y 0x5#4)

theorem shiftRight (x y : Reg) : Statement (.shiftRight x y) :=
  of_row _ ⟨"ShiftRight", 0x8006#16, 0xF00F#16⟩ (by decide) rfl (encodeXYN_mask 0x8#4 x y 0x6#4)

theorem subN (x y : Reg) : Statement (.subN x y) :=
  of_row _ ⟨"SubN", 0x8007#16, 0xF00F#16⟩ (by decide) rfl (encodeXYN_mask 0x8#4 x y 0x7#4)

theorem shiftLeft (x y : Reg) : Statement (.shiftLeft x y) :=
  of_row _ ⟨"ShiftLeft", 0x800E#16, 0xF00F#16⟩ (by decide) rfl (encodeXYN_mask 0x8#4 x y 0xE#4)

theorem skipNotEqualReg (x y : Reg) : Statement (.skipNotEqualReg x y) :=
  of_row _ ⟨"SkipNotEqualReg", 0x9000#16, 0xF00F#16⟩ (by decide) rfl (encodeXYN_mask 0x9#4 x y 0x0#4)

theorem loadI (nnn : Addr) : Statement (.loadI nnn) :=
  of_row _ ⟨"LoadI", 0xA000#16, 0xF000#16⟩ (by decide) rfl (encodeNNN_mask 0xA#4 nnn)

theorem jumpAdd (nnn : Addr) : Statement (.jumpAdd nnn) :=
  of_row _ ⟨"JumpAdd", 0xB000#16, 0xF000#16⟩ (by decide) rfl (encodeNNN_mask 0xB#4 nnn)

theorem random (x : Reg) (kk : Byte) : Statement (.random x kk) :=
  of_row _ ⟨"Random", 0xC000#16, 0xF000#16⟩ (by decide) rfl (encodeXKK_mask 0xC#4 x kk)

theorem draw (x y : Reg) (n : Nat) : Statement (.draw x y n) :=
  of_row _ ⟨"Draw", 0xD000#16, 0xF000#16⟩ (by decide) rfl (encodeXYN_mask_high 0xD#4 x y (BitVec.ofNat 4 n))

theorem skipKey (x : Reg) : Statement (.skipKey x) :=
  of_row _ ⟨"SkipKey", 0xE09E#16, 0xF0FF#16⟩ (by decide) rfl (encodeX_mask 0xE#4 x 0x9E#8)

theorem skipNotKey (x : Reg) : Statement (.skipNotKey x) :=
  of_row _ ⟨"SkipNotKey", 0xE0A1#16, 0xF0FF#16⟩ (by decide) rfl (encodeX_mask 0xE#4 x 0xA1#8)

theorem getDelay (x : Reg) : Statement (.getDelay x) :=
  of_row _ ⟨"GetDelay", 0xF007#16, 0xF0FF#16⟩ (by decide) rfl (encodeX_mask 0xF#4 x 0x07#8)

theorem waitKey (x : Reg) : Statement (.waitKey x) :=
  of_row _ ⟨"WaitKey", 0xF00A#16, 0xF0FF#16⟩ (by decide) rfl (encodeX_mask 0xF#4 x 0x0A#8)

theorem setDelay (x : Reg) : Statement (.setDelay x) :=
  of_row _ ⟨"SetDelay", 0xF015#16, 0xF0FF#16⟩ (by decide) rfl (encodeX_mask 0xF#4 x 0x15#8)

theorem setSound (x : Reg) : Statement (.setSound x) :=
  of_row _ ⟨"SetSound", 0xF018#16, 0xF0FF#16⟩ (by decide) rfl (encodeX_mask 0xF#4 x 0x18#8)

theorem addI (x : Reg) : Statement (.addI x) :=
  of_row _ ⟨"AddI", 0xF01E#16, 0xF0FF#16⟩ (by decide) rfl (encodeX_mask 0xF#4 x 0x1E#8)

theorem setISprite (x : Reg) : Statement (.setISprite x) :=
  of_row _ ⟨"SetISprite", 0xF029#16, 0xF0FF#16⟩ (by decide) rfl (encodeX_mask 0xF#4 x 0x29#8)

theorem storeBCD (x : Reg) : Statement (.storeBCD x) :=
  of_row _ ⟨"StoreBCD", 0xF033#16, 0xF0FF#16⟩ (by decide) rfl (encodeX_mask 0xF#4 x 0x33#8)

theorem storeRegI (x : Reg) : Statement (.storeRegI x) :=
  of_row _ ⟨"StoreRegI", 0xF055#16, 0xF0FF#16⟩ (by decide) rfl (encodeX_mask 0xF#4 x 0x55#8)

theorem loadRegI (x : Reg) : Statement (.loadRegI x) :=
  of_row _ ⟨"LoadRegI", 0xF065#16, 0xF0FF#16⟩ (by decide) rfl (encodeX_mask 0xF#4 x 0x65#8)

end Laws.EncodedInRow

end Sys2Proof
end

