-- ==== Sys2Proof/Tests/Slice0.lean ====
section
/-! SUPPORT. Our own tests. The expected results are the vectors of 95_test_vectors.md (their ids stand beside the tests)
and words written out from the encodings of 30_encoding.md; the second half holds a witness for the hypotheses of every
statement that has some. -/

namespace Sys2Proof.Tests

open Sys2Proof Sys2Proof.Machine Sys2Proof.Safety

/-! ## Helpers -/

/-- The core of "How to read a vector": constructed, loaded, and the opcode at `0x200`. -/
def loaded (op : Word) : State := State.reset.withFetchWord 16 op.toNat

/-- The same with the opcode at `pc`. -/
def loadedAt (pc op : Word) : State := ({ State.reset with pc := pc }).withFetchWord 16 op.toNat

/-- A view of the state after a step that raised no error. -/
def after {α : Type} (s : State) (view : State → α) : Option α :=
  match step s with
  | .next t => some (view t)
  | .fault _ => none
  | .refused _ => none

/-- The error of a step, and a view of the state it leaves. -/
def errorOf {α : Type} (s : State) (view : State → α) : Option (Error × α) :=
  match step s with
  | .fault (.error e t) => some (e, view t)
  | .fault .notReady => none
  | .fault .halted => none
  | .next _ => none
  | .refused _ => none

/-- Hold a key in the coming step. -/
def hold (k : Option KeyCode) (s : State) : State := { s with keyInputs := [k] }

/-- Decide the next free byte. -/
def drawing (b : Byte) (s : State) : State := { s with rndInputs := [b] }

/-- Set `I`. -/
def index (a : Word) (s : State) : State := { s with I := a }

/-- Set a stack of `n` equal entries. -/
def stacked (n : Nat) (s : State) : State := { s with stack := List.replicate n 0x202#16, sp := BitVec.ofNat 8 n }

/-! ## Well-formedness -/

/-- R146: a height of 16 rows is refused, 15 is accepted. -/
theorem test_wellFormed_draw : (Instr.draw 0 0 16).wellFormed = false ∧ (Instr.draw 0 0 15).wellFormed = true := by
  decide

/-! ## Decoding (vectors T-DEC-1 to T-DEC-62) -/

theorem test_decode_family0 :
    decode 0x00E0#16 = .valid .clearScreen ∧ decode 0x00EE#16 = .valid .ret ∧
    decode 0x0000#16 = .invalid 0x0000#16 ∧ decode 0x00E1#16 = .invalid 0x00E1#16 ∧
    decode 0x0123#16 = .invalid 0x0123#16 := by decide

theorem test_decode_addresses :
    decode 0x10E0#16 = .valid (.jump 0x0E0) ∧ decode 0x2FFF#16 = .valid (.call 0xFFF) ∧
    decode 0xA123#16 = .valid (.loadI 0x123) ∧ decode 0xBFFF#16 = .valid (.jumpAdd 0xFFF) := by decide

theorem test_decode_bytes :
    decode 0x3A12#16 = .valid (.skipEqualByte 10 0x12) ∧ decode 0x4F00#16 = .valid (.skipNotEqualByte 15 0x00) ∧
    decode 0x6A2F#16 = .valid (.loadByte 10 0x2F) ∧ decode 0x7001#16 = .valid (.addByte 0 0x01) ∧
    decode 0xC0FF#16 = .valid (.random 0 0xFF) := by decide

theorem test_decode_register_skips :
    decode 0x5120#16 = .valid (.skipEqualReg 1 2) ∧ decode 0x9AB0#16 = .valid (.skipNotEqualReg 10 11) ∧
    decode 0x512F#16 = .invalid 0x512F#16 ∧ decode 0x9AB1#16 = .invalid 0x9AB1#16 := by decide

theorem test_decode_family8_low :
    decode 0x8AB0#16 = .valid (.loadReg 10 11) ∧ decode 0x8AB1#16 = .valid (.or 10 11) ∧
    decode 0x8AB2#16 = .valid (.and 10 11) ∧ decode 0x8AB3#16 = .valid (.xor 10 11) ∧
    decode 0x8AB4#16 = .valid (.addReg 10 11) := by decide

theorem test_decode_family8_high :
    decode 0x8AB5#16 = .valid (.subReg 10 11) ∧ decode 0x8AB6#16 = .valid (.shiftRight 10 11) ∧
    decode 0x8AB7#16 = .valid (.subN 10 11) ∧ decode 0x8ABE#16 = .valid (.shiftLeft 10 11) ∧
    decode 0x8AB8#16 = .invalid 0x8AB8#16 ∧ decode 0x8ABF#16 = .invalid 0x8ABF#16 := by decide

theorem test_decode_draw :
    decode 0xD000#16 = .valid (.draw 0 0 0) ∧ decode 0xDABF#16 = .valid (.draw 10 11 15) := by decide

theorem test_decode_keys :
    decode 0xE19E#16 = .valid (.skipKey 1) ∧ decode 0xE1A1#16 = .valid (.skipNotKey 1) ∧
    decode 0xE19F#16 = .invalid 0xE19F#16 ∧ decode 0xF10A#16 = .valid (.waitKey 1) := by decide

theorem test_decode_timers :
    decode 0xF007#16 = .valid (.getDelay 0) ∧ decode 0xF215#16 = .valid (.setDelay 2) ∧
    decode 0xF318#16 = .valid (.setSound 3) := by decide

theorem test_decode_index :
    decode 0xF41E#16 = .valid (.addI 4) ∧ decode 0xF529#16 = .valid (.setISprite 5) ∧
    decode 0xF633#16 = .valid (.storeBCD 6) ∧ decode 0xF755#16 = .valid (.storeRegI 7) ∧
    decode 0xF865#16 = .valid (.loadRegI 8) ∧ decode 0xF175#16 = .invalid 0xF175#16 ∧
    decode 0xFFFF#16 = .invalid 0xFFFF#16 := by decide

/-- R51: the table word's high byte is the byte at the lower address. -/
theorem test_decode_table_word :
    decodeTableWord 16 0x1234 = some (.jump 0x234) ∧ (loaded 0x1234).mem.readBytes 0x200 2 = [0x12, 0x34] := by decide

/-! ## Fetch and the step frame -/

/-- T-FETCH-1, T-FETCH-2. -/
theorem test_fetch_big_endian :
    after (loaded 0x1234) (·.pc) = some 0x0234 ∧ after (loaded 0x3412) (·.pc) = some 0x0202 := by decide

/-- T-FETCH-3. -/
theorem test_fetch_below_origin :
    errorOf { loaded 0x6001 with pc := 0x1FF, DT := 5 } (fun t => (t.pc, t.DT, t.halted)) =
      some (.addressOutOfBounds 0x1FF, 0x1FF, 5, true) := by decide

/-- T-FETCH-5, T-FETCH-6. -/
theorem test_fetch_limit :
    after (loadedAt 0xFFE 0x6001) (fun t => (t.pc, t.reg 0)) = some (0x1000, 1) ∧
    errorOf { loaded 0x6001 with pc := 0xFFF } (·.pc) = some (.addressOutOfBounds 0xFFF, 0xFFF) := by decide

/-- T-FETCH-9, T-FETCH-11. -/
theorem test_timers_tick :
    after { loaded 0x6001 with DT := 2, ST := 1 } (fun t => (t.DT, t.ST)) = some (1, 0) ∧
    errorOf { loaded 0x0000 with DT := 9 } (fun t => (t.pc, t.DT, t.halted)) =
      some (.invalidInstruction 0, 0x202, 8, true) := by decide

/-- R39, R40: no step before a load, none after an error. -/
theorem test_step_blocked :
    step State.reset = .fault .notReady ∧ step { loaded 0x6001 with halted := true } = .fault .halted := ⟨rfl, rfl⟩

/-! ## Load, arithmetic, logic, shift, random -/

/-- T-ALU-1, T-ALU-2. -/
theorem test_loadByte :
    after (loaded 0x6A2F) (·.reg 10) = some 0x2F ∧ after (loaded 0x6F80) (·.reg 15) = some 0x80 := by decide

/-- T-ALU-3, T-ALU-8, T-ALU-10. -/
theorem test_addByte_carry :
    after ((loaded 0x7302).setReg 3 0xFF) (fun t => (t.reg 3, t.reg 15)) = some (1, 1) ∧
    after ((loaded 0x73FF).setReg 3 0x01) (fun t => (t.reg 3, t.reg 15)) = some (0, 1) ∧
    after ((loaded 0x7F01).setReg 15 0xFF) (·.reg 15) = some 1 := by decide

/-- T-ALU-4, T-ALU-9. -/
theorem test_addByte_draws_flag :
    after (drawing 0xC3 (((loaded 0x7305).setReg 3 0x10).setReg 15 0x55)) (fun t => (t.reg 3, t.reg 15)) =
      some (0x15, 0xC3) ∧
    after (drawing 0x07 ((loaded 0x73FE).setReg 3 0x01)) (fun t => (t.reg 3, t.reg 15)) = some (0xFF, 7) := by decide

/-- T-ALU-12. -/
theorem test_loadReg : after ((loaded 0x8120).setReg 2 0x77) (·.reg 1) = some 0x77 := by decide

/-- T-ALU-13. -/
theorem test_or :
    after ((((loaded 0x8121).setReg 1 0x0F).setReg 2 0xF0).setReg 15 1) (fun t => (t.reg 1, t.reg 15)) =
      some (0xFF, 1) := by decide

/-- T-ALU-14. -/
theorem test_and : after (((loaded 0x8122).setReg 1 0x3C).setReg 2 0x0F) (·.reg 1) = some 0x0C := by decide

/-- T-ALU-14a, T-ALU-14b. -/
theorem test_xor :
    after (((loaded 0x8123).setReg 1 0xFF).setReg 2 0x0F) (·.reg 1) = some 0xF0 ∧
    after ((loaded 0x8113).setReg 1 0xA5) (·.reg 1) = some 0 := by decide

/-- T-ALU-15, T-ALU-16 (source example S4), T-ALU-18. -/
theorem test_addReg :
    after (((loaded 0x8124).setReg 1 250).setReg 2 10) (fun t => (t.reg 1, t.reg 15)) = some (4, 1) ∧
    after ((((loaded 0x8124).setReg 1 10).setReg 2 20).setReg 15 1) (fun t => (t.reg 1, t.reg 15)) = some (30, 0) ∧
    after ((((loaded 0x8124).setReg 1 0xFF).setReg 2 0).setReg 15 1) (·.reg 15) = some 0 := by decide

/-- T-ALU-20, T-ALU-21. -/
theorem test_addReg_flag_register :
    after (((loaded 0x83F4).setReg 3 5).setReg 15 1) (fun t => (t.reg 3, t.reg 15)) = some (6, 0) ∧
    after (((loaded 0x8F14).setReg 15 0xF0).setReg 1 0x20) (·.reg 15) = some 1 := by decide

/-- T-ALU-23, T-ALU-24 (source example S5), T-ALU-25. -/
theorem test_subReg :
    after (((loaded 0x8125).setReg 1 5).setReg 2 10) (fun t => (t.reg 1, t.reg 15)) = some (251, 1) ∧
    after ((((loaded 0x8125).setReg 1 10).setReg 2 5).setReg 15 1) (fun t => (t.reg 1, t.reg 15)) = some (5, 0) ∧
    after ((((loaded 0x8125).setReg 1 7).setReg 2 7).setReg 15 1) (fun t => (t.reg 1, t.reg 15)) = some (0, 0) := by
  decide

/-- R111: 10 - 5 by SubN with the operands exchanged. -/
theorem test_subN :
    after ((((loaded 0x8127).setReg 1 5).setReg 2 10).setReg 15 1) (fun t => (t.reg 1, t.reg 15)) = some (5, 0) ∧
    after (((loaded 0x8127).setReg 1 10).setReg 2 5) (fun t => (t.reg 1, t.reg 15)) = some (251, 1) := by decide

/-- R110: the tested bit is bit 0, `V[y]` is not read. -/
theorem test_shiftRight :
    after ((((loaded 0x8426).setReg 4 0xFE).setReg 2 0x55).setReg 15 1) (fun t => (t.reg 4, t.reg 15)) =
      some (0x7F, 0) ∧
    after ((loaded 0x8406).setReg 4 0x01) (fun t => (t.reg 4, t.reg 15)) = some (0, 1) := by decide

/-- T-ALU-40, T-ALU-41, T-ALU-42. -/
theorem test_shiftLeft :
    after (((loaded 0x840E).setReg 4 0x7F).setReg 15 1) (fun t => (t.reg 4, t.reg 15)) = some (0xFE, 0) ∧
    after ((loaded 0x840E).setReg 4 0x80) (fun t => (t.reg 4, t.reg 15)) = some (0, 1) ∧
    after ((loaded 0x840E).setReg 4 0xFF) (fun t => (t.reg 4, t.reg 15)) = some (0xFE, 1) := by decide

/-- T-ALU-43, T-ALU-44. -/
theorem test_random :
    after (drawing 0xB7 (loaded 0xC30F)) (·.reg 3) = some 0x07 ∧
    after (drawing 0xFF ((loaded 0xC300).setReg 3 0x99)) (·.reg 3) = some 0 := by decide

/-! ## Skips -/

/-- T-SKIP-1 to T-SKIP-4. -/
theorem test_skip_byte :
    after ((loaded 0x3210).setReg 2 0x10) (·.pc) = some 0x204 ∧ after ((loaded 0x3210).setReg 2 0x11) (·.pc) = some 0x202 ∧
    after ((loaded 0x4210).setReg 2 0x10) (·.pc) = some 0x202 ∧ after ((loaded 0x4210).setReg 2 0x11) (·.pc) = some 0x204 := by
  decide

/-- T-SKIP-5, T-SKIP-6, T-SKIP-8, T-SKIP-9. -/
theorem test_skip_reg :
    after (((loaded 0x5120).setReg 1 7).setReg 2 7) (·.pc) = some 0x204 ∧
    after (((loaded 0x5120).setReg 1 7).setReg 2 8) (·.pc) = some 0x202 ∧
    after (((loaded 0x9120).setReg 1 7).setReg 2 8) (·.pc) = some 0x204 ∧
    after (((loaded 0x9120).setReg 1 7).setReg 2 7) (·.pc) = some 0x202 := by decide

/-- T-SKIP-10, T-SKIP-13, T-SKIP-15. -/
theorem test_skipKey :
    after (hold (some 0xA) ((loaded 0xE69E).setReg 6 0x0A)) (·.pc) = some 0x204 ∧
    after (hold (some 5) ((loaded 0xE69E).setReg 6 0x15)) (·.pc) = some 0x202 ∧
    after (hold none (loaded 0xE69E)) (·.pc) = some 0x202 := by decide

/-- T-SKIP-16, T-SKIP-17, T-SKIP-18. -/
theorem test_skipNotKey :
    after (hold none ((loaded 0xE6A1).setReg 6 0x0A)) (·.pc) = some 0x204 ∧
    after (hold (some 0xA) ((loaded 0xE6A1).setReg 6 0x0A)) (·.pc) = some 0x202 ∧
    after (hold (some 5) ((loaded 0xE6A1).setReg 6 0x15)) (·.pc) = some 0x204 := by decide

/-! ## Jump, call, return -/

/-- T-CTL-2, T-CTL-3. -/
theorem test_jump : after (loaded 0x1200) (·.pc) = some 0x200 ∧ after (loaded 0x1000) (·.pc) = some 0 := by decide

/-- T-CTL-4 (source example S6, first step), T-CTL-9. -/
theorem test_call :
    after (loaded 0x2300) (fun t => (t.pc, t.stack, t.sp)) = some (0x300, [0x202], 1) ∧
    after (loadedAt 0xFFE 0x2300) (fun t => (t.pc, t.stack)) = some (0x300, [0x1000]) := by decide

/-- T-CTL-7, T-CTL-8. -/
theorem test_call_bound :
    after (stacked 15 (loaded 0x2300)) (fun t => (t.stack.length, t.sp)) = some (16, 16) ∧
    errorOf (stacked 16 (loaded 0x2300)) (fun t => (t.pc, t.stack.length)) = some (.stackOverflow 0x202, 0x202, 16) := by
  decide

/-- T-CTL-5, T-CTL-6. -/
theorem test_return :
    after { loadedAt 0x300 0x00EE with stack := [0x202, 0x456], sp := 2 } (fun t => (t.pc, t.stack, t.sp)) =
      some (0x456, [0x202], 1) ∧
    errorOf (loadedAt 0x300 0x00EE) (·.pc) = some (.addressOutOfBounds 0x302, 0x302) := by decide

/-- T-CTL-10, T-CTL-11. -/
theorem test_jumpAdd :
    after ((loaded 0xB300).setReg 0 4) (·.pc) = some 0x304 ∧
    after ((loaded 0xBFFF).setReg 0 0xFF) (·.pc) = some 0x10FE := by decide

/-! ## Display -/

/-- T-DRAW-10, T-DRAW-11. -/
theorem test_clearScreen :
    after { loaded 0x00E0 with sprites := [⟨[], 0, 0, 0⟩] } (fun t => (t.sprites, t.directive)) = some ([], .clear) ∧
    after (loaded 0x00E0) (·.directive) = some .clear := by decide

/-- T-DRAW-1. -/
theorem test_draw :
    after (((loaded 0xD125).setReg 1 10).setReg 2 5) (fun t => (t.sprites, t.directive)) =
      some ([⟨[0xF0, 0x90, 0x90, 0x90, 0xF0], 10, 5, 10⟩],
        .draw ([⟨10, 5, 1, 1⟩, ⟨11, 5, 1, 1⟩, ⟨12, 5, 1, 1⟩, ⟨13, 5, 1, 1⟩, ⟨10, 6, 1, 1⟩, ⟨13, 6, 1, 1⟩, ⟨10, 7, 1, 1⟩] ++
          [⟨13, 7, 1, 1⟩, ⟨10, 8, 1, 1⟩, ⟨13, 8, 1, 1⟩, ⟨10, 9, 1, 1⟩, ⟨11, 9, 1, 1⟩, ⟨12, 9, 1, 1⟩, ⟨13, 9, 1, 1⟩])) := by
  decide

/-- T-DRAW-6, T-DRAW-7. -/
theorem test_draw_bound :
    after { index 0x1000 (loaded 0xD121) with mem := (loaded 0xD121).mem.write 0x1000 0x81 } (·.directive) =
      some (.draw [⟨0, 0, 1, 1⟩, ⟨7, 0, 1, 1⟩]) ∧
    errorOf (index 0x1000 (loaded 0xD122)) (fun t => (t.pc, t.sprites)) = some (.memoryOutOfRange 0x1001, 0x202, []) := by
  decide

/-- T-DRAW-12, T-DRAW-15, T-DRAW-16. -/
theorem test_setISprite :
    after ((loaded 0xF529).setReg 5 0x0B) (·.I) = some 0x37 ∧
    after (index 0x123 ((loaded 0xF529).setReg 5 0x10)) (·.I) = some 0x123 ∧
    after (index 0x123 ((loaded 0xF529).setReg 5 0x1A)) (·.I) = some 0x123 := by decide

/-! ## Key wait and timers -/

/-- T-KEY-2, T-KEY-3, T-KEY-4. -/
theorem test_waitKey :
    after (hold (some 0xF) (loaded 0xFF0A)) (fun t => (t.pc, t.reg 15)) = some (0x202, 0x0F) ∧
    after (hold none { loaded 0xF30A with DT := 3, ST := 1 }) (fun t => (t.pc, t.DT, t.ST)) = some (0x200, 2, 0) ∧
    after (hold (some 0) ((loaded 0xF30A).setReg 3 0x55)) (·.reg 3) = some 0 := by decide

/-- T-TMR-1, T-TMR-2. -/
theorem test_getDelay :
    after { loaded 0xF207 with DT := 0x10 } (·.reg 2) = some 0x0F ∧
    after { loaded 0xF207 with DT := 1 } (·.reg 2) = some 0 := by decide

/-- T-TMR-4. -/
theorem test_setDelay : after { (loaded 0xF215).setReg 2 0x3C with DT := 5 } (·.DT) = some 0x3C := by decide

/-- T-TMR-5. -/
theorem test_setSound : after ((loaded 0xF218).setReg 2 5) (·.ST) = some 5 := by decide

/-! ## Index register and memory -/

/-- T-MEM-15, T-MEM-16. -/
theorem test_loadI : after (loaded 0xA2F0) (·.I) = some 0x2F0 ∧ after (loaded 0xAFFF) (·.I) = some 0xFFF := by decide

/-- T-MEM-18 and the wrap of R166. -/
theorem test_addI :
    after (index 0x0FFF ((loaded 0xF41E).setReg 4 1)) (fun t => (t.I, t.reg 15)) = some (0x1000, 0) ∧
    after (index 0xFFFF ((loaded 0xF41E).setReg 4 2)) (fun t => (t.I, t.reg 15)) = some (1, 0) := by decide

/-- T-MEM-1 (source example S9), T-MEM-6. -/
theorem test_storeBCD :
    after (index 0x300 ((loaded 0xF233).setReg 2 157)) (·.mem.readBytes 0x300 3) = some [1, 5, 7] ∧
    errorOf (index 0xFFF ((loaded 0xF233).setReg 2 123)) (·.mem.readBytes 0xFFF 2) =
      some (.memoryOutOfRange 0x1001, [0, 0]) := by decide

/-- T-MEM-5, T-MEM-7: the slack cell and the glyph area can be written. -/
theorem test_storeBCD_edges :
    after (index 0xFFE ((loaded 0xF233).setReg 2 123)) (·.mem.readBytes 0xFFE 3) = some [1, 2, 3] ∧
    after (index 0 ((loaded 0xF233).setReg 2 100)) (·.mem.readBytes 0 4) = some [1, 0, 0, 0x90] := by decide

/-- T-MEM-8 (source example S10), T-MEM-11. -/
theorem test_storeRegI :
    after (index 0x300 ((((((loaded 0xF355).setReg 0 1).setReg 1 2).setReg 2 3).setReg 3 4).setReg 4 5))
      (fun t => (t.mem.readBytes 0x300 5, t.I)) = some ([1, 2, 3, 4, 0], 0x300) ∧
    errorOf (index 0xFF2 ((loaded 0xFF55).setReg 0 0x10)) (·.mem.read 0xFF2) = some (.memoryOutOfRange 0x1001, 0) := by
  decide

/-- T-MEM-13 (part), T-MEM-14. -/
theorem test_loadRegI :
    after (((loaded 0xF365).setReg 4 0x99)) (fun t => (t.regs 5, t.I)) = some ([0xF0, 0x90, 0x90, 0x90, 0x99], 0) ∧
    errorOf (index 0x1000 (loaded 0xF165)) (·.reg 0) = some (.memoryOutOfRange 0x1001, 0) := by decide

/-! ## Load -/

/-- T-LOAD-3 in small: the bytes, `pc`, and the glyphs intact. -/
theorem test_load :
    (match State.reset.load [0x12, 0x34] with
      | .ok t => some (t.pc, t.ready, t.mem.readBytes 0x200 3, t.mem.readBytes 0 2)
      | .error _ => none) = some (0x200, true, [0x12, 0x34, 0], [0xF0, 0x90]) := by decide

/-! ## Witnesses: every statement with hypotheses is met somewhere, each clause at a boundary of its range -/

/-- DecodeEncodeRoundTrip, PlacedWordRunsNext. -/
theorem witness_wellFormed :
    (Instr.draw 15 15 15).WellFormed ∧ (loaded 0x00E0).mem.wf = true ∧ (State.reset).mem.wf = true := by decide

/-- EncodeDecodeRoundTrip. -/
theorem witness_decoded : decode 0xFFFF#16 ≠ .valid .ret ∧ decode 0xFF65#16 = .valid (.loadRegI 15) := by decide

/-- OpcodeMapSelectsVariant, OpcodeMapRowsDisjoint: a row, an opcode that selects it and one that does not. -/
theorem witness_row :
    ⟨"AddReg", 0x8004#16, 0xF00F#16⟩ ∈ opcodeMap ∧ 0x8FF4#16 &&& 0xF00F#16 = 0x8004#16 ∧
    0x8FF5#16 &&& 0xF00F#16 ≠ 0x8004#16 := by decide

/-- InvalidIffNoPattern, InvalidOpcodeRaises. -/
theorem witness_invalid :
    (∀ r ∈ opcodeMap, 0x0000#16 &&& r.mask ≠ r.bits) ∧ Enabled (loaded 0x0000) ∧
    (∀ r ∈ opcodeMap, opcodeAtPc (loaded 0x0000) &&& r.mask ≠ r.bits) := by
  refine ⟨by decide, ⟨rfl, rfl, by decide, by decide⟩, by decide⟩

/-- StepRunsDecodedInstruction: enabled at the lowest and the highest fetch address, with an instruction that completes
and one that raises. -/
theorem witness_step :
    Enabled (loaded 0x6001) ∧ decode (opcodeAtPc (loaded 0x6001)) = .valid (.loadByte 0 1) ∧
    Enabled (loadedAt 0xFFE 0x00EE) ∧ decode (opcodeAtPc (loadedAt 0xFFE 0x00EE)) = .valid .ret := by
  refine ⟨⟨rfl, rfl, by decide, by decide⟩, by decide, ⟨rfl, rfl, by decide, by decide⟩, by decide⟩

/-- FetchChecksRangeAndAdvances: below, at both ends, and above. -/
theorem witness_fetch :
    (({ loaded 0x6001 with pc := 0x1FF }).ready = true ∧ ({ loaded 0x6001 with pc := 0x1FF }).halted = false ∧
      ({ loaded 0x6001 with pc := 0x1FF }).pc.toNat < 0x200) ∧
    (({ loaded 0x6001 with pc := 0xFFF }).ready = true ∧ ({ loaded 0x6001 with pc := 0xFFF }).halted = false ∧
      0xFFF ≤ ({ loaded 0x6001 with pc := 0xFFF }).pc.toNat) ∧
    (0x200 ≤ (loaded 0x6001).pc.toNat ∧ (loaded 0x6001).pc.toNat < 0xFFF) ∧
    (0x200 ≤ (loadedAt 0xFFE 0x6001).pc.toNat ∧ (loadedAt 0xFFE 0x6001).pc.toNat < 0xFFF) := by decide

/-- StepNeedsReadyAndNotHalted. -/
theorem witness_blocked :
    ({ loaded 0x6001 with halted := true }).halted = true ∧ State.reset.halted = false ∧
    State.reset.ready = false := by decide

/-- TimersTickOncePerStep: a step of another instruction, one of each timer write, an error in execute and one in fetch. -/
theorem witness_timers :
    (after (loaded 0x6001) (·.DT)).isSome = true ∧
    (∀ x, decode (opcodeAtPc (loaded 0xF218)) ≠ .valid (.setDelay x)) ∧
    (∀ x, decode (opcodeAtPc (loaded 0xF215)) ≠ .valid (.setSound x)) ∧
    ((errorOf (loaded 0x00EE) (·.DT)).isSome = true ∧ Enabled (loaded 0x00EE)) ∧
    ((errorOf { loaded 0x6001 with pc := 0 } (·.DT)).isSome = true ∧ ¬ Enabled { loaded 0x6001 with pc := 0 }) := by
  refine ⟨by decide, by decide, by decide, ⟨by decide, ⟨rfl, rfl, by decide, by decide⟩⟩, by decide, ?_⟩
  rintro ⟨_, _, h, _⟩
  exact absurd h (by decide)

/-- ErrorsArePrecise, ErrorsExactlyWhereListed: each listed case at its boundary, and its neighbour that completes. -/
theorem witness_errors :
    (∃ r, exec .ret State.reset = .fault r) ∧
    (∃ r, exec (.call 0x300) (stacked 16 State.reset) = .fault r) ∧
    (∃ t, exec (.call 0x300) (stacked 15 State.reset) = .next t) ∧
    (∃ r, exec (.draw 0 0 16) State.reset = .fault r) ∧
    (∃ r, exec (.draw 0 0 1) (index 0x1001 State.reset) = .fault r) ∧
    (∃ t, exec (.draw 0 0 1) (index 0x1000 State.reset) = .next t) ∧
    (∃ r, exec (.storeBCD 0) (index 0xFFF State.reset) = .fault r) ∧
    (∃ t, exec (.storeBCD 0) (index 0xFFE State.reset) = .next t) ∧
    (∃ r, exec (.storeRegI 15) (index 0xFF2 State.reset) = .fault r) ∧
    (∃ r, exec (.loadRegI 15) (index 0xFF2 State.reset) = .fault r) ∧
    (∃ t, exec (.loadRegI 15) (index 0xFF1 State.reset) = .next t) :=
  ⟨⟨_, rfl⟩, ⟨_, rfl⟩, ⟨_, rfl⟩, ⟨_, rfl⟩, ⟨_, rfl⟩, ⟨_, rfl⟩, ⟨_, rfl⟩, ⟨_, rfl⟩, ⟨_, rfl⟩, ⟨_, rfl⟩, ⟨_, rfl⟩⟩

/-- StateElementsHaveTheirWriters, VFKeptUnlessWritten: instructions that complete and write no `pc`, no VF, no register. -/
theorem witness_writers :
    (∃ t, exec (.loadByte 1 2) State.reset = .next t) ∧ mayWriteVF (.loadByte 1 2) = false ∧
    mayWritePc (.loadByte 1 2) = false ∧
    (∃ t, exec (.draw 1 2 5) State.reset = .next t) ∧ mayWriteVF (.draw 1 2 5) = false ∧
    mayWriteRegs (.draw 1 2 5) = false :=
  ⟨⟨_, rfl⟩, rfl, rfl, ⟨_, rfl⟩, rfl, rfl⟩

/-- UnreadStateInfluencesNothing: two different states that agree on everything read. -/
theorem witness_unread :
    hideUnread (loaded 0x2300) = hideUnread { loaded 0x2300 with ST := 9, sp := 3, sprites := [⟨[1], 0, 0, 1⟩] } ∧
    loaded 0x2300 ≠ { loaded 0x2300 with ST := 9, sp := 3, sprites := [⟨[1], 0, 0, 1⟩] } := ⟨rfl, by decide⟩

/-- OnlyKeyInstructionsReadKey. -/
theorem witness_readsKey : readsKey (.getDelay 1) = false ∧ readsKey (.waitKey 1) = true := by decide

/-- AddByteCarriesOrDrawsVF, AddByteParameterForms: the sums 256 and 255, the destinations 0, 14 and VF. -/
theorem witness_addByte :
    (((State.reset.setReg 14 1).reg 14).toNat + (0xFF#8).toNat > 255 ∧ (14#4 : Reg) ≠ 15#4) ∧
    (((State.reset.setReg 15 0xFF).reg 15).toNat + (1#8).toNat > 255) ∧
    (((State.reset.setReg 0 1).reg 0).toNat + (0xFE#8).toNat ≤ 255 ∧ (0#4 : Reg) ≠ 15#4) ∧
    params.addByteVfNoCarry = .any ∧
    ({ params with addByteVfNoCarry := .unchanged }).addByteVfNoCarry = .unchanged ∧
    ({ params with addByteVfNoCarry := .zero }).addByteVfNoCarry = .zero := by decide

/-- AddRegSumsAndSetsCarry, SubtractVariantsSetBorrow, ShiftsSetRunTestFlag, FlagOrderMattersOnlyForVF. -/
theorem witness_not_VF : (14#4 : Reg) ≠ 15#4 ∧ (0#4 : Reg) ≠ 15#4 := by decide

/-- ShiftParameterForms: both sources give an operand, with the tested bit 1 (0xFF, 0x81) and 0 (0x7E, 0x00), under both
settings of `SHIFT_VF_CLEAR` and of `FLAG_ORDER`; the destinations 14 and 15. -/
theorem witness_shift_parameters :
    (0xFF#8 = (State.reset.setReg 14 0xFF).shiftOperand params.shiftSource 14 2 ∧ params.shiftSource = .vx) ∧
    (0x81#8 = (State.reset.setReg 2 0x81).shiftOperand ({ params with shiftSource := .vy }).shiftSource 15 2 ∧
      ({ params with shiftSource := .vy }).shiftSource = .vy) ∧
    (decide ((0x81#8).toNat % 2 = 1) = true ∧ decide (128 ≤ (0x81#8).toNat) = true) ∧
    (decide ((0x7E#8).toNat % 2 = 1) = false ∧ decide (128 ≤ (0x7E#8).toNat) = false) ∧
    (params.shiftVfClear = .zero ∧ ({ params with shiftVfClear := .unchanged }).shiftVfClear = .unchanged) ∧
    (params.flagOrder = .flagLast ∧ ({ params with flagOrder := .resultLast }).flagOrder = .resultLast) ∧
    (14#4 : Reg) ≠ 15#4 := by decide

/-- KeySkipsAreComplements: the whole byte 0x0F equals key F, 0x1F does not, and no key equals nothing. -/
theorem witness_keySkips :
    (∃ k, (hold (some 15) (State.reset.setReg 1 0x0F)).key = some k ∧
      k.toNat = ((hold (some 15) (State.reset.setReg 1 0x0F)).reg 1).toNat) ∧
    (¬ ∃ k, (hold (some 15) (State.reset.setReg 1 0x1F)).key = some k ∧
      k.toNat = ((hold (some 15) (State.reset.setReg 1 0x1F)).reg 1).toNat) ∧
    (¬ ∃ k, (hold none State.reset).key = some k ∧ k.toNat = ((hold none State.reset).reg 1).toNat) := by decide

/-- JumpSetsPc: the targets 0x1FF and 0xFFF, and a jump to its own address. -/
theorem witness_jump :
    ((loaded 0x6001).ready = true ∧ (loaded 0x6001).halted = false ∧
      (0x1FF#12).toNat < 0x200 ∧ (0xFFF#12).toNat = 0xFFF) ∧
    (Enabled (loaded 0x1200) ∧ decode (opcodeAtPc (loaded 0x1200)) = .valid (.jump 0x200) ∧
      (0x200#12).toNat = (loaded 0x1200).pc.toNat) := by
  refine ⟨by decide, ⟨rfl, rfl, by decide, by decide⟩, by decide, by decide⟩

/-- CallPushesReturnAddress, CallThenReturnRestores: 15 entries and 16. -/
theorem witness_call :
    (stacked 15 State.reset).stack.length < 16 ∧ 16 ≤ (stacked 16 State.reset).stack.length := by decide

/-- ReturnPopsTopEntry. -/
theorem witness_return :
    (stacked 1 State.reset).stack = [] ++ [0x202#16] ∧ State.reset.stack = [] ∧
    (∃ t, exec (.call 0x300) State.reset = .next t) := ⟨by decide, by decide, _, rfl⟩

/-- ClearScreenEmptiesSprites: a Draw after it that completes. -/
theorem witness_clearScreen :
    ∃ t u, exec .clearScreen State.reset = .next t ∧ exec (.draw 0 0 5) t = .next u := ⟨_, _, rfl, rfl⟩

/-- DrawAppendsSprite: no rows at the top of `I`, one row in the last cell, 15 rows that end in it. -/
theorem witness_draw :
    (0 ≤ 15 ∧ (0 = 0 ∨ (index 0xFFFF State.reset).I.toNat + (0 - 1) ≤ 0x1000)) ∧
    (1 ≤ 15 ∧ (1 = 0 ∨ (index 0x1000 State.reset).I.toNat + (1 - 1) ≤ 0x1000)) ∧
    (15 ≤ 15 ∧ (15 = 0 ∨ (index 0xFF2 State.reset).I.toNat + (15 - 1) ≤ 0x1000)) := by decide

/-- DrawErasesNothing: the same sprite drawn twice, ending in the last cell. -/
theorem witness_draw_twice :
    ∃ t u, exec (.draw 1 2 15) (index 0xFF2 State.reset) = .next t ∧ exec (.draw 1 2 15) t = .next u :=
  ⟨_, _, rfl, rfl⟩

/-- SetISpriteLooksUpDigit: 15 and 16. -/
theorem witness_setISprite :
    ((State.reset.setReg 3 15).reg 3).toNat ≤ 15 ∧ 15 < ((State.reset.setReg 3 16).reg 3).toNat := by decide

/-- WaitKeyWaitsOrStoresCode, WaitingStepKeepsPc. -/
theorem witness_waitKey :
    (hold none (loaded 0xF30A)).key = none ∧ (hold (some 0) (loaded 0xF30A)).key = some 0 ∧
    Enabled (hold none (loaded 0xF30A)) ∧
    decode (opcodeAtPc (hold none (loaded 0xF30A))) = .valid (.waitKey 3) := by
  refine ⟨rfl, rfl, ⟨rfl, rfl, by decide, by decide⟩, by decide⟩

/-- StoreBCDWritesDigits, StoreRegICopiesRegisters, LoadRegICopiesCells, LoadAfterStoreKeepsRegisters: accesses that end
in the last cell. -/
theorem witness_inside :
    (index 0xFFE State.reset).mem.wf = true ∧ (index 0xFFE State.reset).base + 2 ≤ 0x1000 ∧
    (index 0xFF1 State.reset).base + (15#4).toNat ≤ 0x1000 ∧
    (index 0x1000 State.reset).base + (0#4).toNat ≤ 0x1000 := by decide

/-- DataAccessOutsideRaises: each clause one past its range. -/
theorem witness_outside :
    15 < 16 ∧
    (15 ≤ 15 ∧ 0 < 15 ∧ 0x1000 < (index 0xFF3 State.reset).base + (15 - 1)) ∧
    (1 ≤ 15 ∧ 0 < 1 ∧ 0x1000 < (index 0xFFFF State.reset).base + (1 - 1)) ∧
    0x1000 < (index 0xFFF State.reset).base + 2 ∧
    0x1000 < (index 0xFF2 State.reset).base + (15#4).toNat ∧
    0x1000 < (index 0x1001 State.reset).base + (0#4).toNat := by decide

/-- CanonicalMemoryIsExtensional: two canonical memories that read alike, one of them written twice. -/
theorem witness_canonical :
    Memory.wf [(0x300, 7)] = true ∧ Memory.wf ((Memory.write [(0x300, 5)] 0x300 7)) = true ∧
    (∀ a, Memory.read [(0x300, 7)] a = Memory.read (Memory.write [(0x300, 5)] 0x300 7) a) :=
  ⟨by decide, by decide, fun _ => rfl⟩

/-- RegisterAccessIsGated. -/
theorem witness_gate : 15 < 16 ∧ State.reset.getV 16 = .error (.invalidRegister 16) := ⟨by decide, rfl⟩

/-- LoadRejectsLongRom, LoadCopiesRom, LoadedResetState (source example S2): `0xDFF` bytes, one more, and none. -/
theorem witness_rom :
    (List.replicate 0xDFF 0#8).length ≤ 0xDFF ∧ 0xDFF < (List.replicate 0xE00 0#8).length ∧
    ([] : List Byte).length ≤ 0xDFF ∧ (1 < [0x12#8, 0x34#8].length ∧ [0x12#8, 0x34#8].length ≤ 0xDFF) ∧
    State.reset.mem.wf = true := by
  refine ⟨by rw [List.length_replicate], by rw [List.length_replicate]; decide, by decide, by decide, by decide⟩

/-- The invariant holds of a state whose stack, sprites and directive are not empty. -/
theorem witness_inv (op : Word) (m : Memory) (h : m.wf = true) :
    Inv { stacked 16 (loaded op) with
      mem := m, sprites := [⟨[0x80], 255, 255, 256⟩], directive := .draw [⟨262, 269, 1, 1⟩], pc := 0x200 } := by
  refine ⟨h, ⟨?_, ?_, ?_⟩, ?_, ⟨?_, ?_⟩, ?_⟩ <;> simp [stacked, SpriteOk, RectOk]

/-- StepKeepsInvariant: a step that answers a next state and one that raises, from states of the invariant. -/
theorem witness_step_inv :
    (Inv (loaded 0x6001) ∧ (after (loaded 0x6001) (·.pc)).isSome = true) ∧
    (Inv (loaded 0x00EE) ∧ (errorOf (loaded 0x00EE) (·.pc)).isSome = true) := by
  refine ⟨⟨⟨by decide, ⟨by decide, by decide, ?_⟩, ?_, trivial, by decide⟩, by decide⟩,
    ⟨⟨by decide, ⟨by decide, by decide, ?_⟩, ?_, trivial, by decide⟩, by decide⟩⟩ <;>
  intro a h <;> cases h

/-- LoadKeepsInvariant. -/
theorem witness_load_inv :
    Inv State.reset ∧ ∃ t, State.reset.load [0x12, 0x34] = .ok t := by
  refine ⟨⟨by decide, ⟨by decide, by decide, ?_⟩, ?_, trivial, by decide⟩, ⟨_, rfl⟩⟩ <;> intro a h <;> cases h

end Sys2Proof.Tests
end

section
/-! SUPPORT. One equation for each outcome of a step and of the instructions whose meaning branches. -/

namespace Sys2Proof.Machine

open Sys2Proof

/-! ## Jump, call and return (R130 to R133) -/

/-- The value of an address widened to 16 bits. -/
theorem addrOf_toNat (nnn : Addr) : (addrOf nnn).toNat = nnn.toNat := by
  have hn := nnn.isLt
  simp only [addrOf, BitVec.toNat_setWidth]
  omega

/-- The targets of JumpAdd: the full sum of a 12-bit address and a byte. -/
theorem State.jumpAddTarget_toNat (s : State) (nnn : Addr) :
    (s.jumpAddTarget nnn).toNat = nnn.toNat + (s.reg 0).toNat := by
  have hn := nnn.isLt
  have hb := (s.reg 0).isLt
  simp only [State.jumpAddTarget, addrOf, BitVec.toNat_add, BitVec.toNat_setWidth]
  omega

/-- Call with room on the stack. -/
theorem exec_call_of_lt {s : State} (nnn : Addr) (room : s.stack.length < 16) :
    exec (.call nnn) s = .next { s with stack := s.stack ++ [s.pc], sp := s.sp + 1, pc := addrOf nnn } := by
  rcases s.push_cases 16 s.pc with ⟨_, eq⟩ | ⟨full, _⟩
  · simp only [exec, execCall, callWith, params, eq]
    rfl
  · omega

/-- Call on a full stack. -/
theorem exec_call_of_le {s : State} (nnn : Addr) (full : 16 ≤ s.stack.length) :
    exec (.call nnn) s = raise (.stackOverflow s.pc) s := by
  rcases s.push_cases 16 s.pc with ⟨room, _⟩ | ⟨_, eq⟩
  · omega
  · simp only [exec, execCall, callWith, params, eq]

/-- Return with a top entry. -/
theorem exec_ret_of_append {s : State} {rest : List Word} {v : Word} (top : s.stack = rest ++ [v]) :
    exec .ret s = .next { s with stack := rest, sp := s.sp - 1, pc := v } := by
  rcases s.pop_cases with ⟨rest', v', top', eq⟩ | ⟨empty, _⟩
  · obtain ⟨rfl, rfl⟩ := List.append_singleton_inj.mp (top.symm.trans top')
    simp only [exec, execRet, eq]
    rfl
  · simp [top] at empty

/-- Return on an empty stack. -/
theorem exec_ret_of_nil {s : State} (empty : s.stack = []) : exec .ret s = raise (.addressOutOfBounds s.pc) s := by
  rcases s.pop_cases with ⟨rest, v, top, _⟩ | ⟨_, eq⟩
  · simp [top] at empty
  · simp only [exec, execRet, eq]

/-! ## Display and key input (R141, R144, R156) -/

/-- Draw inside the array. -/
theorem exec_draw_inside {s : State} (x y : Reg) {n : Nat} (rows : n ≤ 15)
    (inside : s.base + n ≤ memLast + 1 ∨ n = 0) :
    exec (.draw x y n) s = .next (s.place (s.spriteAt x y n)) := by
  simp only [exec, execDraw, if_neg (Nat.not_lt.mpr rows)]
  exact withCells_inside s s.base n _ inside

/-- SetISprite of a digit. -/
theorem exec_setISprite_of_le {s : State} {x : Reg} (digit : (s.reg x).toNat ≤ 15) :
    exec (.setISprite x) s = .next { s with I := BitVec.ofNat 16 (5 * (s.reg x).toNat) } := by
  rcases glyphAddr_cases (s.reg x) with ⟨_, eq⟩ | ⟨other, _⟩
  · simp only [exec, execSetISprite, eq]
  · omega

/-- SetISprite of a value that is no digit. -/
theorem exec_setISprite_of_lt {s : State} {x : Reg} (other : 15 < (s.reg x).toNat) :
    exec (.setISprite x) s = .next s := by
  rcases glyphAddr_cases (s.reg x) with ⟨digit, _⟩ | ⟨_, eq⟩
  · omega
  · simp only [exec, execSetISprite, eq]

/-- WaitKey without a key. -/
theorem exec_waitKey_of_none {s : State} (x : Reg) (hk : s.key = none) :
    exec (.waitKey x) s = .next (s.setPc (s.pc - 2)) := by
  simp only [exec, execWaitKey, hk]

/-- WaitKey with a key. -/
theorem exec_waitKey_of_some {s : State} (x : Reg) {k : KeyCode} (hk : s.key = some k) :
    exec (.waitKey x) s = .next (s.setReg x (k.setWidth 8)) := by
  simp only [exec, execWaitKey, hk]

/-! ## A step (R90) -/

section
variable {s : State}

/-- A step after an error. -/
theorem step_of_halted (halted : s.halted = true) : step s = .fault .halted := by
  simp only [step, stepBlocked, halted, if_true]

/-- A step before a load. -/
theorem step_of_not_ready (running : s.halted = false) (unready : s.ready = false) : step s = .fault .notReady := by
  simp [step, stepBlocked, running, unready]

variable (running : s.halted = false) (ready : s.ready = true)
include running ready

/-- A step whose fetch fails. -/
theorem step_of_illegal (illegal : fetchable s.pc = false) : step s = raise (.addressOutOfBounds s.pc) s := by
  simp [step, stepBlocked, fetch, running, ready, illegal]

variable (legal : fetchable s.pc = true)
include legal

/-- A step that meets an opcode of no instruction. -/
theorem step_of_invalid {bad : Word} (decoded : decode (opcodeAt s.mem s.pc.toNat) = .invalid bad) :
    step s = raise (.invalidInstruction bad) (beginExecute (s.setPc (s.pc + 2))) := by
  simp [step, stepBlocked, fetch, running, ready, legal, decoded]

/-- A step that runs an instruction. -/
theorem step_of_valid {i : Instr} (decoded : decode (opcodeAt s.mem s.pc.toNat) = .valid i) :
    step s = endStep (exec i (beginExecute (s.setPc (s.pc + 2)))) := by
  simp [step, stepBlocked, fetch, running, ready, legal, decoded]

end

end Sys2Proof.Machine
end

section
/-! SUPPORT. What an instruction does when it completes, said once for all 34, and that it raises otherwise: the
invariants below follow from the cases of `Effect` and never unfold a meaning again. -/

namespace Sys2Proof.Machine

open Sys2Proof Sys2Proof.Safety

/-- What an instruction leaves from `s` when it completes: one constructor for each part of the state it writes. -/
inductive Effect (s : State) : Instr → State → Prop where
  /-- General registers, and the draw inputs where a byte is drawn. -/
  | regs {i : Instr} (V : Vector Byte 16) (rnd : List Byte) (count : Nat) (hi : mayWriteRegs i = true)
      (hvf : mayWriteVF i = false → ({ s with V := V } : State).reg vf = s.reg vf) :
      Effect s i { s with V := V, rndInputs := rnd, drawCount := count }
  /-- `pc` alone: kept, moved by one instruction, or a target of Jump and JumpAdd. -/
  | pc {i : Instr} (a : Word) (hi : mayWritePc i = true)
      (ha : a = s.pc ∨ a = s.pc + 2 ∨ a = s.pc - 2 ∨ a.toNat ≤ 0x10FE) : Effect s i (s.setPc a)
  | call (nnn : Addr) (room : s.stack.length < 16) :
      Effect s (.call nnn) { s with stack := s.stack ++ [s.pc], sp := s.sp + 1, pc := addrOf nnn }
  | ret (rest : List Word) (v : Word) (top : s.stack = rest ++ [v]) :
      Effect s .ret { s with stack := rest, sp := s.sp - 1, pc := v }
  | loadI (nnn : Addr) (a : Word) : Effect s (.loadI nnn) { s with I := a }
  | addI (x : Reg) (a : Word) : Effect s (.addI x) { s with I := a }
  | setISprite (x : Reg) (a : Word) : Effect s (.setISprite x) { s with I := a }
  | setDelay (x : Reg) (b : Byte) : Effect s (.setDelay x) { s with DT := b }
  | setSound (x : Reg) (b : Byte) : Effect s (.setSound x) { s with ST := b }
  | clearScreen : Effect s .clearScreen { s with sprites := [], directive := .clear }
  | draw (x y : Reg) (n : Nat) (rows : n ≤ 15) : Effect s (.draw x y n) (s.place (s.spriteAt x y n))
  | storeBCD (x : Reg) (bytes : List Byte) (inside : s.base + bytes.length ≤ memLast + 1) :
      Effect s (.storeBCD x) { s with mem := s.mem.writeBytes s.base bytes }
  | storeRegI (x : Reg) (bytes : List Byte) (inside : s.base + bytes.length ≤ memLast + 1) :
      Effect s (.storeRegI x) { s with mem := s.mem.writeBytes s.base bytes }

/-! ## The effects of the shared operations -/

section
variable {s : State} {i : Instr}

/-- An instruction that does not write VF has another destination. -/
theorem vf_ne_of_mayWriteVF {x : Reg} (hx : mayWriteVF i = (x == 15#4)) (h : mayWriteVF i = false) : vf ≠ x := by
  rintro rfl
  rw [hx] at h
  exact absurd h (by decide)

/-- A write of the destination register. -/
theorem Effect.of_setReg {x : Reg} (b : Byte) (hi : mayWriteRegs i = true) (hx : mayWriteVF i = (x == 15#4)) :
    Effect s i (s.setReg x b) :=
  .regs _ s.rndInputs s.drawCount hi fun h => State.setReg_reg_of_ne s b (vf_ne_of_mayWriteVF hx h)

/-- The writes of a flag-writing instruction. -/
theorem Effect.of_writeback (x : Reg) (result flag : Byte) (hi : mayWriteRegs i = true) (hf : mayWriteVF i = true) :
    Effect s i (writeback params.flagOrder x result flag s) :=
  .regs _ s.rndInputs s.drawCount hi (by simp [hf])

/-- The writes of a shift. -/
theorem Effect.of_shiftWriteback (x : Reg) (result flag : Byte) (hi : mayWriteRegs i = true)
    (hf : mayWriteVF i = true) : Effect s i (shiftWriteback params x result flag s) := by
  rw [shiftWriteback_zero params rfl]
  exact .of_writeback x result flag hi hf

/-- Writes of general registers by an instruction that draws a byte. -/
theorem Effect.of_afterDraw (V : Vector Byte 16) (hi : mayWriteRegs i = true)
    (hvf : mayWriteVF i = false → ({ s with V := V } : State).reg vf = s.reg vf) :
    Effect s i { s.afterDraw with V := V } := by
  rw [State.afterDraw_frame]
  exact .regs V _ _ hi hvf

/-- A skip. -/
theorem Effect.of_skipIf (taken : Bool) (hi : mayWritePc i = true) : Effect s i (s.skipIf taken) := by
  cases taken
  · exact .pc s.pc hi (.inl rfl)
  · exact .pc (s.pc + 2) hi (.inr (.inl rfl))

/-- A data access completes with its body inside the array, and raises outside it. -/
theorem withCells_effect {base n : Nat} {t : State} (body : base + n ≤ memLast + 1 ∨ n = 0 → Effect s i t) :
    (∃ u, withCells s base n (.next t) = .next u ∧ Effect s i u) ∨
      ∃ e, withCells s base n (.next t) = raise e s := by
  rcases withCells_cases s base n (.next t) with ⟨inside, eq⟩ | ⟨_, _, eq⟩
  · exact .inl ⟨t, eq, body inside⟩
  · exact .inr ⟨_, eq⟩

end

/-! ## One instruction -/

/-- The effect of AddByte, with a carry and without one. -/
theorem Effect.of_addByte (x : Reg) (kk : Byte) (s : State) : Effect s (.addByte x kk) (addByteWith params x kk s) := by
  unfold addByteWith
  split
  · exact .of_writeback x _ 1 rfl rfl
  · exact .of_afterDraw _ rfl nofun

/-- The effect of LoadRegI: `V[15]` is loaded by `x = 15` alone. -/
theorem Effect.of_loadRegs (x : Reg) (s : State) : Effect s (.loadRegI x) (s.loadRegs s.base (x.toNat + 1)) := by
  rw [State.loadRegs_frame]
  refine .regs _ s.rndInputs s.drawCount rfl fun hx => ?_
  have hne : x ≠ 15#4 := by simpa [mayWriteVF] using hx
  have hlt : ¬ vf.toNat < x.toNat + 1 := fun h => hne (BitVec.eq_of_toNat_eq (by simp [vf] at h ⊢; omega))
  exact (State.loadRegs_reg s s.base _ (by omega) vf).trans (if_neg hlt)

/-- Every instruction completes with its effect or raises. -/
theorem exec_cases (i : Instr) (s : State) :
    (∃ t, exec i s = .next t ∧ Effect s i t) ∨ ∃ e, exec i s = raise e s := by
  cases i with
  | clearScreen => exact .inl ⟨_, rfl, .clearScreen⟩
  | ret =>
    rcases s.stack.eq_nil_or_concat' with empty | ⟨rest, v, top⟩
    · exact .inr ⟨_, exec_ret_of_nil empty⟩
    · exact .inl ⟨_, exec_ret_of_append top, .ret rest v top⟩
  | call nnn =>
    rcases Nat.lt_or_ge s.stack.length 16 with room | full
    · exact .inl ⟨_, exec_call_of_lt nnn room, .call nnn room⟩
    · exact .inr ⟨_, exec_call_of_le nnn full⟩
  | jump nnn =>
    have hn := nnn.isLt
    exact .inl ⟨_, rfl, .pc _ rfl (.inr (.inr (.inr (by rw [addrOf_toNat]; omega))))⟩
  | jumpAdd nnn =>
    have hn := nnn.isLt
    have hb := (s.reg 0).isLt
    exact .inl ⟨_, rfl, .pc _ rfl (.inr (.inr (.inr (by rw [State.jumpAddTarget_toNat]; omega))))⟩
  | skipEqualByte | skipNotEqualByte | skipEqualReg | skipNotEqualReg | skipKey | skipNotKey =>
    exact .inl ⟨_, rfl, .of_skipIf _ rfl⟩
  | loadByte | loadReg | or | and | xor | getDelay => exact .inl ⟨_, rfl, .of_setReg _ rfl rfl⟩
  | addByte x kk => exact .inl ⟨_, rfl, .of_addByte x kk s⟩
  | addReg | subReg | subN => exact .inl ⟨_, rfl, .of_writeback _ _ _ rfl rfl⟩
  | shiftRight | shiftLeft => exact .inl ⟨_, rfl, .of_shiftWriteback _ _ _ rfl rfl⟩
  | random x kk =>
    exact .inl ⟨_, rfl, .of_afterDraw _ rfl fun h =>
      (State.setReg_reg_of_ne s.afterDraw _ (vf_ne_of_mayWriteVF rfl h)).trans (s.afterDraw_reg vf)⟩
  | draw x y n =>
    by_cases rows : n ≤ 15
    · simp only [exec, execDraw, if_neg (Nat.not_lt.mpr rows)]
      exact withCells_effect fun _ => .draw x y n rows
    · exact .inr ⟨_, if_pos (Nat.not_le.mp rows)⟩
  | waitKey x =>
    cases hk : s.key with
    | none => exact .inl ⟨_, exec_waitKey_of_none x hk, .pc (s.pc - 2) rfl (.inr (.inr (.inl rfl)))⟩
    | some k => exact .inl ⟨_, exec_waitKey_of_some x hk, .of_setReg _ rfl rfl⟩
  | loadI nnn => exact .inl ⟨_, rfl, .loadI nnn _⟩
  | addI x => exact .inl ⟨_, rfl, .addI x _⟩
  | setISprite x =>
    rcases Nat.lt_or_ge 15 (s.reg x).toNat with other | digit
    · exact .inl ⟨_, exec_setISprite_of_lt other, .setISprite x s.I⟩
    · exact .inl ⟨_, exec_setISprite_of_le digit, .setISprite x _⟩
  | setDelay x => exact .inl ⟨_, rfl, .setDelay x _⟩
  | setSound x => exact .inl ⟨_, rfl, .setSound x _⟩
  | storeBCD x => exact withCells_effect fun h => .storeBCD x _ (h.resolve_right (by simp [bcdDigits]))
  | storeRegI x => exact withCells_effect fun h => .storeRegI x _ (h.resolve_right (by simp))
  | loadRegI x => exact withCells_effect fun _ => .of_loadRegs x s

/-- What an instruction that completes has done. -/
theorem exec_effect {i : Instr} {s t : State} (h : exec i s = .next t) : Effect s i t := by
  rcases exec_cases i s with ⟨u, eq, effect⟩ | ⟨e, eq⟩ <;> rw [eq] at h
  · cases h
    exact effect
  · exact absurd h (raise_ne_next e s t)

end Sys2Proof.Machine
end

section
/-! SUPPORT. What the sprite renderer emits (R143, D16): where each rectangle lies, how many there are, and in
which order. -/

namespace Sys2Proof.Machine

/-- The rectangles of a sprite: one for each set bit of each row. -/
theorem mem_spriteToRects (bytes : List Byte) (x0 y0 : Nat) (q : Rect) :
    q ∈ spriteToRects bytes x0 y0 ↔
      ∃ r c, ∃ h : r < bytes.length, c < 8 ∧ (bytes[r]'h).getLsbD (7 - c) = true ∧ q = ⟨x0 + c, y0 + r, 1, 1⟩ := by
  induction bytes generalizing y0 with
  | nil => simp [spriteToRects]
  | cons b bs ih =>
    simp only [spriteToRects, List.mem_append, mem_rowRects, ih]
    constructor
    · rintro (⟨c, hc, bit, eq⟩ | ⟨r, c, hr, hc, bit, eq⟩)
      · exact ⟨0, c, Nat.succ_pos _, hc, bit, eq⟩
      · exact ⟨r + 1, c, Nat.succ_lt_succ hr, hc, bit, by rw [eq, Nat.add_assoc, Nat.add_comm 1 r]⟩
    · rintro ⟨_ | r, c, hr, hc, bit, eq⟩
      · exact .inl ⟨c, hc, bit, eq⟩
      · exact .inr ⟨r, c, Nat.lt_of_succ_lt_succ hr, hc, bit, by rw [eq, Nat.add_assoc, Nat.add_comm 1 r]⟩

/-- Every rectangle is a unit rectangle at most 7 columns right of the origin and inside the sprite's rows. -/
theorem spriteToRects_bounds {bytes : List Byte} {x0 y0 : Nat} {q : Rect} (hq : q ∈ spriteToRects bytes x0 y0) :
    q.w = 1 ∧ q.h = 1 ∧ x0 ≤ q.x ∧ q.x ≤ x0 + 7 ∧ y0 ≤ q.y ∧ q.y < y0 + bytes.length := by
  obtain ⟨r, c, hr, hc, _, rfl⟩ := (mem_spriteToRects bytes x0 y0 q).mp hq
  dsimp only
  omega

/-- A sprite has at most 8 rectangles a row. -/
theorem spriteToRects_length_le (bytes : List Byte) (x0 y0 : Nat) :
    (spriteToRects bytes x0 y0).length ≤ 8 * bytes.length := by
  induction bytes generalizing y0 with
  | nil => simp [spriteToRects]
  | cons b bs ih =>
    have row := rowRects_length b x0 y0
    have rest := ih (y0 + 1)
    simp only [spriteToRects, List.length_append, List.length_cons]
    omega

/-- Before, in the order of the renderer: an earlier row, or the same row further left. -/
def Rect.Before (a b : Rect) : Prop := a.y < b.y ∨ (a.y = b.y ∧ a.x < b.x)

/-- A row is listed from left to right. -/
theorem rowRects_pairwise (b : Byte) (x0 y : Nat) : (rowRects b x0 y).Pairwise Rect.Before := by
  refine (List.pairwise_lt_range (n := 8)).filterMap _ fun c d hcd p hp q hq => ?_
  simp only [Option.ite_none_right_eq_some, Option.some.injEq] at hp hq
  obtain ⟨_, rfl⟩ := hp
  obtain ⟨_, rfl⟩ := hq
  exact .inr ⟨rfl, Nat.add_lt_add_left hcd x0⟩

/-- A sprite is listed row by row. -/
theorem spriteToRects_pairwise (bytes : List Byte) (x0 y0 : Nat) :
    (spriteToRects bytes x0 y0).Pairwise Rect.Before := by
  induction bytes generalizing y0 with
  | nil => exact List.Pairwise.nil
  | cons b bs ih =>
    refine List.pairwise_append.mpr ⟨rowRects_pairwise b x0 y0, ih (y0 + 1), fun p hp q hq => .inl ?_⟩
    obtain ⟨c, _, _, rfl⟩ := (mem_rowRects b x0 y0 p).mp hp
    exact (spriteToRects_bounds hq).2.2.2.2.1

end Sys2Proof.Machine
end

section
/-! SUPPORT. Canonical memory is determined by what it reads (log 7), and what a load into the memory of construction
leaves. -/

namespace Sys2Proof.Machine

/-- The first listed cell of canonical memory, and the rest of it. -/
theorem Memory.wfFrom_cons {lo a : Nat} {v : Byte} {m : Memory} (h : Memory.wfFrom lo ((a, v) :: m) = true) :
    v ≠ initialByte a ∧ Memory.wfFrom (a + 1) m = true := by
  simp only [Memory.wfFrom, Bool.and_eq_true, decide_eq_true_eq] at h
  obtain ⟨⟨_, differs⟩, rest⟩ := h
  exact ⟨differs, rest⟩

/-- Reading the first listed cell. -/
theorem Memory.read_head (a : Nat) (v : Byte) (m : Memory) : Memory.read ((a, v) :: m) a = v := if_pos rfl

/-- Reading another cell. -/
theorem Memory.read_tail {a c : Nat} (v : Byte) (m : Memory) (h : c ≠ a) :
    Memory.read ((a, v) :: m) c = m.read c := if_neg h

/-- Where canonical memories read alike, the second lists no later address first: the first one's first cell differs
from its contents after construction. -/
theorem Memory.head_le_head {lo a b : Nat} {v w : Byte} {m m' : Memory}
    (h : Memory.wfFrom lo ((a, v) :: m) = true) (h' : Memory.wfFrom lo ((b, w) :: m') = true)
    (same : ∀ c, Memory.read ((a, v) :: m) c = Memory.read ((b, w) :: m') c) : b ≤ a := by
  by_contra below
  have initial : Memory.read ((b, w) :: m') a = initialByte a :=
    (Memory.read_tail w m' (by omega)).trans
      (Memory.read_of_lt m' (b + 1) a (Memory.wfFrom_cons h').2 (by omega))
  exact (Memory.wfFrom_cons h).1 ((Memory.read_head a v m).symm.trans ((same a).trans initial))

/-- Canonical memory that reads as the memory after construction lists nothing. -/
theorem Memory.read_cons_ne_nil {lo a : Nat} {v : Byte} {m : Memory} (h : Memory.wfFrom lo ((a, v) :: m) = true) :
    Memory.read ((a, v) :: m) a ≠ Memory.read [] a := by
  rw [Memory.read_head]
  exact (Memory.wfFrom_cons h).1

/-- Canonical memories that read alike are equal. -/
theorem Memory.eq_of_read_eq {lo : Nat} {m m' : Memory} (h : Memory.wfFrom lo m = true)
    (h' : Memory.wfFrom lo m' = true) (same : ∀ c, m.read c = m'.read c) : m = m' := by
  induction m generalizing lo m' with
  | nil =>
    match m' with
    | [] => rfl
    | (b, w) :: m' => exact absurd (same b).symm (Memory.read_cons_ne_nil h')
  | cons cell m ih =>
    obtain ⟨a, v⟩ := cell
    match m' with
    | [] => exact absurd (same a) (Memory.read_cons_ne_nil h)
    | (b, w) :: m' =>
      obtain rfl : a = b :=
        Nat.le_antisymm (Memory.head_le_head h' h fun c => (same c).symm) (Memory.head_le_head h h' same)
      obtain rfl : v = w := by simpa only [Memory.read_head] using same a
      obtain ⟨_, rest⟩ := Memory.wfFrom_cons h
      obtain ⟨_, rest'⟩ := Memory.wfFrom_cons h'
      have tails : m = m' := ih rest rest' fun c => by
        by_cases hc : c = a
        · rw [Memory.read_of_lt m (a + 1) c rest (by omega), Memory.read_of_lt m' (a + 1) c rest' (by omega)]
        · simpa only [Memory.read_tail v _ hc] using same c
      rw [tails]

/-! ## A load (R212) -/

/-- Reading consecutive cells that read alike. -/
theorem Memory.readBytes_congr {m m' : Memory} {base n : Nat} (h : ∀ k < n, m.read (base + k) = m'.read (base + k)) :
    m.readBytes base n = m'.readBytes base n :=
  List.map_congr_left fun k hk => h k (List.mem_range.mp hk)

/-- Above the glyphs every cell is zero after construction. -/
theorem initialByte_of_le {a : Nat} (h : 0x50 ≤ a) : initialByte a = 0 :=
  List.getD_eq_default _ _ h

section
variable {rom : List Byte} (cells : 0x200 + rom.length ≤ memLast + 1)
include cells

/-- A load into the memory of construction leaves every cell outside the ROM as it was. -/
theorem read_load_outside {a : Nat} (h : a < 0x200 ∨ 0x200 + rom.length ≤ a) :
    (State.reset.mem.writeBytes 0x200 rom).read a = initialByte a := by
  rw [Memory.read_writeBytes rom _ _ a Memory.wf_reset cells, dif_neg (by omega)]
  rfl

/-- A load puts the ROM at `0x200`. -/
theorem read_load_inside {j : Nat} (h : j < rom.length) :
    (State.reset.mem.writeBytes 0x200 rom).read (0x200 + j) = rom[j] := by
  rw [Memory.read_writeBytes rom _ _ _ Memory.wf_reset cells, dif_pos (by omega)]
  simp only [Nat.add_sub_cancel_left]

/-- A load leaves the cells of a block below `0x200` as they were. -/
theorem readBytes_load_below {base n : Nat} (h : base + n ≤ 0x200) :
    (State.reset.mem.writeBytes 0x200 rom).readBytes base n = State.reset.mem.readBytes base n :=
  Memory.readBytes_congr fun _ _ => read_load_outside cells (.inl (by omega))

end

end Sys2Proof.Machine
end

section
/-! SUPPORT. The invariant of the core is kept by each part of a step: the fetch frame, the effect of an instruction,
the entry of an error and the passing on of the inputs. -/

namespace Sys2Proof.Safety

open Sys2Proof Sys2Proof.Machine

/-! ## The stack and the display -/

/-- A push of a post-fetch `pc`, on a stack with room. -/
theorem StackOk.push {s : State} (h : StackOk s) (room : s.stack.length < 16) (lo : 0x202 ≤ s.pc.toNat)
    (hi : s.pc.toNat ≤ 0x1000) (target : Word) :
    StackOk { s with stack := s.stack ++ [s.pc], sp := s.sp + 1, pc := target } := by
  obtain ⟨_, counted, entries⟩ := h
  refine ⟨by simpa using room, ?_, ?_⟩
  · simp only [List.length_append, List.length_singleton, BitVec.ofNat_eq_ofNat, BitVec.toNat_add, BitVec.toNat_ofNat,
      counted]
    omega
  · intro a ha
    rcases List.mem_append.mp ha with old | new
    · exact entries a old
    · rw [List.mem_singleton.mp new]
      exact ⟨lo, hi⟩

/-- A pop of the top entry. -/
theorem StackOk.pop {s : State} (h : StackOk s) {rest : List Word} {v : Word} (top : s.stack = rest ++ [v])
    (target : Word) : StackOk { s with stack := rest, sp := s.sp - 1, pc := target } := by
  obtain ⟨bound, counted, entries⟩ := h
  rw [top] at bound counted entries
  simp only [List.length_append, List.length_singleton] at bound counted
  refine ⟨by dsimp only; omega, ?_, fun a ha => entries a (List.mem_append_left _ ha)⟩
  simp only [BitVec.ofNat_eq_ofNat, BitVec.toNat_sub, BitVec.toNat_ofNat, counted]
  omega

/-- The top entry is a post-fetch `pc`. -/
theorem StackOk.top_le {s : State} (h : StackOk s) {rest : List Word} {v : Word} (top : s.stack = rest ++ [v]) :
    v.toNat ≤ 0x1000 :=
  (h.2.2 v (by simp [top])).2

/-- The sprite of a Draw of at most 15 rows. -/
theorem SpriteOk.spriteAt (s : State) (x y : Reg) {n : Nat} (rows : n ≤ 15) : SpriteOk (s.spriteAt x y n) := by
  have len : (s.spriteAt x y n).bytes.length = n := Memory.readBytes_length s.mem s.base n
  exact ⟨len.trans_le rows, Nat.le_of_lt_succ (s.reg x).isLt, Nat.le_of_lt_succ (s.reg y).isLt,
    congrArg ((s.reg y).toNat + ·) len.symm⟩

/-- The directive of a placed sprite. -/
theorem SpriteOk.directiveOk {p : Sprite} (h : SpriteOk p) : DirectiveOk (.draw (spriteToRects p.bytes p.x p.y)) := by
  obtain ⟨rows, hx, hy, _⟩ := h
  refine ⟨(spriteToRects_length_le p.bytes p.x p.y).trans (by omega), fun q hq => ?_⟩
  obtain ⟨hw, hh, _, right, _, down⟩ := spriteToRects_bounds hq
  exact ⟨hw, hh, by omega, by omega⟩

/-! ## The parts of a step -/

/-- A move of `pc` inside its range. -/
theorem Inv.setPc {s : State} (h : Inv s) {a : Word} (ha : a.toNat ≤ 0x10FE) : Inv (s.setPc a) := by
  obtain ⟨mem, stack, sprites, directive, _⟩ := h
  exact ⟨mem, stack, sprites, directive, ha⟩

/-- Phases 1 and 3. -/
theorem Inv.beginExecute {s : State} (h : Inv s) : Inv (beginExecute s) := by
  obtain ⟨mem, stack, sprites, _, pc⟩ := h
  exact ⟨mem, stack, sprites, trivial, pc⟩

/-- What an error leaves. -/
theorem Inv.halt {s : State} (h : Inv s) : Inv { s with halted := true, directive := .none } := by
  obtain ⟨mem, stack, sprites, _, pc⟩ := h
  exact ⟨mem, stack, sprites, trivial, pc⟩

/-- The inputs of the next step. -/
theorem Inv.nextKey {s : State} (h : Inv s) : Inv s.nextKey := h

/-- A `pc` past a legal fetch. -/
theorem toNat_add_two_of_fetchable {pc : Word} (h : fetchable pc = true) :
    0x202 ≤ (pc + 2).toNat ∧ (pc + 2).toNat ≤ 0x1000 := by
  obtain ⟨lo, hi⟩ := (fetchable_iff pc).mp h
  simp only [BitVec.ofNat_eq_ofNat, BitVec.toNat_add, BitVec.toNat_ofNat]
  omega

/-- Phase 4: every effect keeps the invariant, from a `pc` past a legal fetch. -/
theorem Inv.effect {s t : State} {i : Instr} (h : Inv s) (lo : 0x202 ≤ s.pc.toNat) (hi : s.pc.toNat ≤ 0x1000)
    (e : Effect s i t) : Inv t := by
  obtain ⟨mem, stack, sprites, directive, pc⟩ := h
  cases e with
  | regs | loadI | addI | setISprite | setDelay | setSound => exact ⟨mem, stack, sprites, directive, pc⟩
  | pc a _ ha =>
    refine ⟨mem, stack, sprites, directive, ?_⟩
    rcases ha with rfl | rfl | rfl | target
    · exact pc
    · simp only [State.setPc_pc, BitVec.ofNat_eq_ofNat, BitVec.toNat_add, BitVec.toNat_ofNat]
      omega
    · simp only [State.setPc_pc, BitVec.ofNat_eq_ofNat, BitVec.toNat_sub, BitVec.toNat_ofNat]
      omega
    · exact target
  | call nnn room =>
    refine ⟨mem, stack.push room lo hi _, sprites, directive, ?_⟩
    rw [addrOf_toNat]
    omega
  | ret rest v top => exact ⟨mem, stack.pop top v, sprites, directive, (stack.top_le top).trans (by decide)⟩
  | clearScreen => exact ⟨mem, stack, List.forall_mem_nil _, trivial, pc⟩
  | draw x y n rows =>
    have new := SpriteOk.spriteAt s x y rows
    exact ⟨mem, stack, List.forall_mem_append.mpr ⟨sprites, List.forall_mem_singleton.mpr new⟩, new.directiveOk, pc⟩
  | storeBCD x bytes inside | storeRegI x bytes inside =>
    exact ⟨Memory.wf_writeBytes bytes s.mem s.base mem inside, stack, sprites, directive, pc⟩

/-- A whole step that answers a next state. -/
theorem Inv.step_next {s t : State} (h : Inv s) (e : step s = .next t) : Inv t := by
  obtain ⟨i, u, _, _, legal, _, run, rfl⟩ := Machine.step_next s t e
  obtain ⟨lo, hi⟩ := toNat_add_two_of_fetchable legal
  exact ((h.setPc (hi.trans (by decide))).beginExecute.effect lo hi (exec_effect run)).nextKey

/-- A step needs a ready core that is not halted. -/
theorem enabled_iff (s : State) : Enabled s ↔ s.ready = true ∧ s.halted = false ∧ fetchable s.pc = true := by
  rw [fetchable_iff]
  rfl

/-- A step that raises leaves its own state where the fetch failed, and the state of phase 4 otherwise, halted. -/
theorem step_error {s left : State} {e : Error} (h : step s = .fault (.error e left)) :
    (¬ Enabled s ∧ left = { s with halted := true, directive := .none }) ∨
    (Enabled s ∧ left = { beginExecute (s.setPc (s.pc + 2)) with halted := true, directive := .none }) := by
  rw [enabled_iff]
  rcases step_cases s with ⟨_, eq⟩ | ⟨_, _, eq⟩ | ⟨_, _, illegal, eq⟩ | ⟨_, running, ready, legal, _, eq⟩ |
    ⟨i, running, ready, legal, _, eq⟩ <;> rw [eq] at h
  · cases h
  · cases h
  · cases h
    exact .inl ⟨by simp [illegal], rfl⟩
  · cases h
    exact .inr ⟨⟨ready, running, legal⟩, rfl⟩
  · rcases exec_cases i (beginExecute (s.setPc (s.pc + 2))) with ⟨u, run, _⟩ | ⟨e', run⟩ <;> rw [run] at h
    · cases h
    · cases h
      exact .inr ⟨⟨ready, running, legal⟩, rfl⟩

/-- A whole step that raises. -/
theorem Inv.step_error {s left : State} {e : Error} (h : Inv s) (he : step s = .fault (.error e left)) :
    Inv left ∧ left.halted = true := by
  rcases Safety.step_error he with ⟨_, rfl⟩ | ⟨enabled, rfl⟩
  · exact ⟨h.halt, rfl⟩
  · obtain ⟨_, _, legal⟩ := (enabled_iff s).mp enabled
    have past := (toNat_add_two_of_fetchable legal).2
    exact ⟨(h.setPc (past.trans (by decide))).beginExecute.halt, rfl⟩

/-- The invariant of the state after construction. -/
theorem Inv.reset : Inv State.reset :=
  ⟨Memory.wf_reset, ⟨by decide, by decide, List.forall_mem_nil _⟩, List.forall_mem_nil _, trivial, by decide⟩

end Sys2Proof.Safety
end

section
/-! The obligations about the invariant. -/

namespace Sys2Proof.Safety

open Sys2Proof Sys2Proof.Machine

/-- Settles O56: a step is a fetch, a tick and the effect of an instruction, or an error, and each keeps the
invariant. -/
theorem stepKeepsInvariant : Obligations.StepKeepsInvariant := fun _ h =>
  ⟨fun _ e => h.step_next e, fun _ _ e => h.step_error e⟩

/-- Settles O55. -/
theorem resetHasInvariant : Obligations.ResetHasInvariant := Inv.reset

end Sys2Proof.Safety
end

section
/-! Which instructions write which part of the state, and what the step itself does to the timers. -/

namespace Sys2Proof.Safety

open Sys2Proof Sys2Proof.Machine

/-- Settles O16, from the effect of each instruction. -/
theorem stateElementsHaveTheirWriters : Obligations.StateElementsHaveTheirWriters := by
  intro i s t h
  cases exec_effect h with
  | regs V rnd count hi | pc a hi => simp [hi]
  | call | ret | loadI | addI | setISprite | setDelay | setSound | clearScreen | draw | storeBCD | storeRegI =>
    simp [mayWriteRegs, mayWritePc]

/-- Settles O17: the effects that write registers say when VF is among them. -/
theorem vfKeptUnlessWritten : Obligations.VFKeptUnlessWritten := by
  intro i s t h
  cases exec_effect h with
  | regs V rnd count hi hvf => exact hvf
  | pc | call | ret | loadI | addI | setISprite | setDelay | setSound | clearScreen | draw | storeBCD | storeRegI =>
    exact fun _ => rfl

/-- An instruction but SetDelay keeps the delay timer. -/
theorem exec_DT {i : Instr} {s t : State} (h : exec i s = .next t) (hi : ∀ x, i ≠ .setDelay x) : t.DT = s.DT := by
  obtain ⟨_, _, _, delay, _⟩ := stateElementsHaveTheirWriters i s t h
  exact delay hi

/-- An instruction but SetSound keeps the sound timer. -/
theorem exec_ST {i : Instr} {s t : State} (h : exec i s = .next t) (hi : ∀ x, i ≠ .setSound x) : t.ST = s.ST := by
  obtain ⟨_, _, _, _, sound, _⟩ := stateElementsHaveTheirWriters i s t h
  exact sound hi

/-- The value of a timer after a tick. -/
theorem tickTimer_toNat (t : Byte) : (tickTimer t).toNat = t.toNat - 1 := by
  have ht := t.isLt
  rw [tickTimer_eq, BitVec.toNat_ofNat]
  omega

/-- Settles O12: an instruction starts from ticked timers, and so does an error after fetch. -/
theorem timersTickOncePerStep : Obligations.TimersTickOncePerStep := by
  intro s
  refine ⟨fun t h other => ?_, fun t h other => ?_, fun e left h enabled => ?_, fun e left h blocked => ?_⟩
  · obtain ⟨i, u, _, _, _, decoded, run, rfl⟩ := step_next s t h
    exact (congrArg BitVec.toNat (exec_DT run fun x hi => other x (hi ▸ decoded))).trans (tickTimer_toNat s.DT)
  · obtain ⟨i, u, _, _, _, decoded, run, rfl⟩ := step_next s t h
    exact (congrArg BitVec.toNat (exec_ST run fun x hi => other x (hi ▸ decoded))).trans (tickTimer_toNat s.ST)
  · rcases step_error h with ⟨blocked, _⟩ | ⟨_, rfl⟩
    · exact absurd enabled blocked
    · exact ⟨tickTimer_toNat s.DT, tickTimer_toNat s.ST⟩
  · rcases step_error h with ⟨_, rfl⟩ | ⟨enabled, _⟩
    · exact ⟨rfl, rfl⟩
    · exact absurd enabled blocked

/-- Settles O11. -/
theorem stepNeedsReadyAndNotHalted : Obligations.StepNeedsReadyAndNotHalted := fun _ =>
  ⟨step_of_halted, step_of_not_ready⟩

end Sys2Proof.Safety
end

section
/-! SUPPORT. Most instructions neither read nor write the sprite list, the sound timer, `sp` and the key input: they
commute with any change of these fields. -/

namespace Sys2Proof.Safety

open Sys2Proof Sys2Proof.Machine

/-- A change of the fields that most instructions leave alone, each by a function of its own. -/
structure Overlay where
  sprites : List Sprite → List Sprite
  ST : Byte → Byte
  sp : Byte → Byte
  keyInputs : List (Option KeyCode) → List (Option KeyCode)
  keyCount : Nat → Nat

/-- The changed state. -/
def Overlay.on (g : Overlay) (s : State) : State :=
  { s with
    sprites := g.sprites s.sprites
    ST := g.ST s.ST
    sp := g.sp s.sp
    keyInputs := g.keyInputs s.keyInputs
    keyCount := g.keyCount s.keyCount }

/-- The overlay that hides what no instruction reads: `hide.on` is `hideUnread`. -/
def Overlay.hide : Overlay := ⟨fun _ => [], fun _ => 0, fun _ => 0, id, id⟩

/-- The overlay that replaces the key input. -/
def Overlay.keys (keys : List (Option KeyCode)) (n : Nat) : Overlay := ⟨id, id, id, fun _ => keys, fun _ => n⟩

/-- The instructions that write the sprite list, the sound timer or `sp`. -/
def writesUnread : Instr → Bool
  | .clearScreen | .draw _ _ _ | .setSound _ | .call _ | .ret => true
  | _ => false

namespace Overlay

variable (g : Overlay) (s : State)

/-- A draw takes its byte from other fields. -/
theorem on_afterDraw : (g.on s).afterDraw = g.on s.afterDraw := by
  simp only [State.afterDraw, Overlay.on]
  cases s.rndInputs <;> rfl

/-- A skip moves `pc`. -/
theorem on_skipIf (taken : Bool) : (g.on s).skipIf taken = g.on (s.skipIf taken) := by
  cases taken <;> rfl

/-- A block load reads memory. -/
theorem on_loadRegs (base n : Nat) : (g.on s).loadRegs base n = g.on (s.loadRegs base n) := by
  induction n with
  | zero => rfl
  | succ k ih =>
    rw [State.loadRegs, ih]
    rfl

/-- A shift writes registers. -/
theorem on_shiftWriteback (x : Reg) (result flag : Byte) :
    shiftWriteback params x result flag (g.on s) = g.on (shiftWriteback params x result flag s) := by
  simp only [shiftWriteback_zero params rfl]
  rfl

/-- AddByte reads and writes registers and the draw inputs. -/
theorem on_addByteWith (x : Reg) (kk : Byte) :
    addByteWith params x kk (g.on s) = g.on (addByteWith params x kk s) := by
  have hreg : (g.on s).reg x = s.reg x := rfl
  simp only [addByteWith, hreg]
  split
  · rfl
  · simp only [addByteNoCarry, params, on_afterDraw]
    rfl

/-- The bounds check of a data access reads no changed field. -/
theorem on_withCells {base n : Nat} {body body' : Outcome} (h : body = mapOutcome g.on body') :
    withCells (g.on s) base n body = mapOutcome g.on (withCells s base n body') := by
  unfold withCells
  split
  · rfl
  · exact h

/-- An instruction that does not write the changed fields, and does not read the key where it is changed. -/
theorem exec_on (i : Instr) (hw : writesUnread i = false) (hk : readsKey i = false ∨ (g.on s).key = s.key) :
    exec i (g.on s) = mapOutcome g.on (exec i s) := by
  cases i with
  | clearScreen | draw | setSound | call | ret => simp [writesUnread] at hw
  | jump | jumpAdd | loadByte | loadReg | or | and | xor | addReg | subReg | subN | getDelay | setDelay | loadI
  | addI => rfl
  | skipEqualByte | skipNotEqualByte | skipEqualReg | skipNotEqualReg =>
    exact congrArg Host.Outcome.next (g.on_skipIf s _)
  | shiftRight | shiftLeft => exact congrArg Host.Outcome.next (g.on_shiftWriteback s _ _ _)
  | addByte x kk => exact congrArg Host.Outcome.next (g.on_addByteWith s x kk)
  | random x kk => exact congrArg (fun t : State => Host.Outcome.next (t.setReg x (s.draw8 &&& kk))) (g.on_afterDraw s)
  | skipKey x | skipNotKey x =>
    have same : (g.on s).keyMatches x = s.keyMatches x := by
      simp only [State.keyMatches, hk.resolve_left nofun]
      rfl
    simp only [exec, execSkipKey, execSkipNotKey, same, on_skipIf]
    rfl
  | waitKey x =>
    have same : (g.on s).key = s.key := hk.resolve_left nofun
    cases key : s.key with
    | none =>
      rw [exec_waitKey_of_none x key, exec_waitKey_of_none x (same.trans key)]
      rfl
    | some k =>
      rw [exec_waitKey_of_some x key, exec_waitKey_of_some x (same.trans key)]
      rfl
  | setISprite x =>
    rcases Nat.lt_or_ge 15 (s.reg x).toNat with other | digit
    · rw [exec_setISprite_of_lt other, exec_setISprite_of_lt (s := g.on s) other]
      rfl
    · rw [exec_setISprite_of_le digit, exec_setISprite_of_le (s := g.on s) digit]
      rfl
  | storeBCD x | storeRegI x => exact g.on_withCells s rfl
  | loadRegI x => exact g.on_withCells s (congrArg Host.Outcome.next (g.on_loadRegs s _ _))

end Overlay

end Sys2Proof.Safety
end

section
/-! Noninterference: what no instruction reads (R26, R30, R34), and the key input, which three instructions read
(R38). -/

namespace Sys2Proof.Safety

open Sys2Proof Sys2Proof.Machine

/-! ## One instruction from two states: how the outcomes relate is settled branch by branch -/

section
variable {P : Outcome → Outcome → Prop} {s s' : State}

/-- Call from two states with equal stacks. -/
theorem exec_call_rel (nnn : Addr) (stack : s'.stack = s.stack)
    (next : P (.next { s' with stack := s'.stack ++ [s'.pc], sp := s'.sp + 1, pc := addrOf nnn })
      (.next { s with stack := s.stack ++ [s.pc], sp := s.sp + 1, pc := addrOf nnn }))
    (error : P (raise (.stackOverflow s'.pc) s') (raise (.stackOverflow s.pc) s)) :
    P (exec (.call nnn) s') (exec (.call nnn) s) := by
  rcases Nat.lt_or_ge s.stack.length 16 with room | full
  · rwa [exec_call_of_lt nnn room, exec_call_of_lt nnn (stack ▸ room)]
  · rwa [exec_call_of_le nnn full, exec_call_of_le nnn (stack ▸ full)]

/-- Return from two states with equal stacks. -/
theorem exec_ret_rel (stack : s'.stack = s.stack)
    (next : ∀ rest v, P (.next { s' with stack := rest, sp := s'.sp - 1, pc := v })
      (.next { s with stack := rest, sp := s.sp - 1, pc := v }))
    (error : P (raise (.addressOutOfBounds s'.pc) s') (raise (.addressOutOfBounds s.pc) s)) :
    P (exec .ret s') (exec .ret s) := by
  rcases s.stack.eq_nil_or_concat' with empty | ⟨rest, v, top⟩
  · rwa [exec_ret_of_nil empty, exec_ret_of_nil (stack.trans empty)]
  · rw [exec_ret_of_append top, exec_ret_of_append (stack.trans top)]
    exact next rest v

/-- Draw from two states with equal `I`. -/
theorem exec_draw_rel (x y : Reg) (n : Nat) (base : s'.base = s.base)
    (next : P (.next (s'.place (s'.spriteAt x y n))) (.next (s.place (s.spriteAt x y n))))
    (error : ∀ e, P (raise e s') (raise e s)) : P (exec (.draw x y n) s') (exec (.draw x y n) s) := by
  simp only [exec, execDraw, base, withCells]
  split
  · exact error _
  · split
    · exact error _
    · exact next

end

/-! ## What no instruction reads -/

/-- Two outcomes are equal but for what no instruction reads. -/
def AgreeWhereRead (o o' : Outcome) : Prop := mapOutcome hideUnread o = mapOutcome hideUnread o'

/-- Hiding twice is hiding once. -/
theorem mapOutcome_hideUnread_idem (o : Outcome) :
    mapOutcome hideUnread (mapOutcome hideUnread o) = mapOutcome hideUnread o := by
  match o with
  | .next _ | .fault (.error _ _) | .fault .notReady | .fault .halted | .refused _ => rfl

/-- The end of a step moves on to inputs that are not hidden. -/
theorem mapOutcome_hideUnread_endStep (o : Outcome) :
    mapOutcome hideUnread (endStep o) = endStep (mapOutcome hideUnread o) := by
  match o with
  | .next _ | .fault (.error _ _) | .fault .notReady | .fault .halted | .refused _ => rfl

/-- Fetch and the timer tick do not read what is hidden. -/
theorem hideUnread_beginExecute (s : State) :
    beginExecute ((hideUnread s).setPc ((hideUnread s).pc + 2)) = hideUnread (beginExecute (s.setPc (s.pc + 2))) := rfl

/-- No instruction reads what is hidden. -/
theorem exec_hideUnread (i : Instr) (s : State) :
    mapOutcome hideUnread (exec i (hideUnread s)) = mapOutcome hideUnread (exec i s) := by
  cases hw : writesUnread i with
  | false =>
    have commutes : exec i (hideUnread s) = mapOutcome hideUnread (exec i s) := Overlay.hide.exec_on s i hw (.inr rfl)
    rw [commutes, mapOutcome_hideUnread_idem]
  | true =>
    cases i with
    | clearScreen | setSound => rfl
    | draw x y n => exact exec_draw_rel (P := AgreeWhereRead) x y n rfl rfl fun _ => rfl
    | call nnn => exact exec_call_rel (P := AgreeWhereRead) nnn rfl rfl rfl
    | ret => exact exec_ret_rel (P := AgreeWhereRead) rfl (fun _ _ => rfl) rfl
    | _ => simp [writesUnread] at hw

/-- No step reads what is hidden. -/
theorem step_hideUnread (s : State) : mapOutcome hideUnread (step (hideUnread s)) = mapOutcome hideUnread (step s) := by
  rcases step_cases s with ⟨halted, eq⟩ | ⟨running, unready, eq⟩ | ⟨running, ready, illegal, eq⟩ |
    ⟨bad, running, ready, legal, decoded, eq⟩ | ⟨i, running, ready, legal, decoded, eq⟩ <;> rw [eq]
  · rw [step_of_halted (s := hideUnread s) halted]
  · rw [step_of_not_ready (s := hideUnread s) running unready]
  · rw [step_of_illegal (s := hideUnread s) running ready illegal]
    rfl
  · rw [step_of_invalid (s := hideUnread s) running ready legal decoded]
    rfl
  · rw [step_of_valid (s := hideUnread s) running ready legal decoded, hideUnread_beginExecute,
      mapOutcome_hideUnread_endStep, exec_hideUnread, ← mapOutcome_hideUnread_endStep]

/-- Settles O18. -/
theorem unreadStateInfluencesNothing : Obligations.UnreadStateInfluencesNothing := by
  intro s s' h
  rw [← step_hideUnread s, h, step_hideUnread]

/-! ## The key input -/

/-- The first outcome is the second one with the overlay's change. -/
def Overlay.Changes (g : Overlay) (o o' : Outcome) : Prop := o = mapOutcome g.on o'

/-- An instruction that reads no key commutes with a change of the key input. -/
theorem exec_keys_on (keys : List (Option KeyCode)) (n : Nat) (i : Instr) (s : State) (hk : readsKey i = false) :
    exec i ((Overlay.keys keys n).on s) = mapOutcome (Overlay.keys keys n).on (exec i s) := by
  cases hw : writesUnread i with
  | false => exact (Overlay.keys keys n).exec_on s i hw (.inl hk)
  | true =>
    cases i with
    | clearScreen | setSound => rfl
    | draw x y rows => exact exec_draw_rel (P := (Overlay.keys keys n).Changes) x y rows rfl rfl fun _ => rfl
    | call nnn => exact exec_call_rel (P := (Overlay.keys keys n).Changes) nnn rfl rfl rfl
    | ret => exact exec_ret_rel (P := (Overlay.keys keys n).Changes) rfl (fun _ _ => rfl) rfl
    | _ => simp [writesUnread] at hw

/-- Settles O19. -/
theorem onlyKeyInstructionsReadKey : Obligations.OnlyKeyInstructionsReadKey := fun i s keys n hk =>
  exec_keys_on keys n i s hk

end Sys2Proof.Safety
end

section
/-! The obligations about the display (R141 to R145). -/

namespace Sys2Proof.Safety

open Sys2Proof Sys2Proof.Machine

/-- Settles O38. -/
theorem drawAppendsSprite : Obligations.DrawAppendsSprite := by
  intro x y n s rows inside
  have cells : s.I.toNat + n ≤ 0x1000 + 1 ∨ n = 0 := by omega
  exact ⟨_, _, exec_draw_inside x y rows cells, rfl, rfl, rfl, rfl, fun _ => rfl⟩

/-- Settles O39, by the two lemmas about the renderer. -/
theorem rendererEmitsUnitRects : Obligations.RendererEmitsUnitRects := fun bytes x0 y0 =>
  ⟨mem_spriteToRects bytes x0 y0, spriteToRects_pairwise bytes x0 y0⟩

/-- Settles O58: the second Draw finds the memory, `I` and the registers of the first, so it places the same sprite. -/
theorem drawErasesNothing : Obligations.DrawErasesNothing := by
  intro x y n s t u first second
  obtain rfl := execDraw_next x y n s t first
  obtain rfl := execDraw_next x y n _ u second
  refine ⟨rfl, rfl, rfl, s.spriteAt x y n, rfl, List.append_assoc .., _, rfl, fun q hq => ?_⟩
  obtain ⟨_, _, left, _, above, _⟩ := spriteToRects_bounds hq
  exact ⟨left, above⟩

/-- Settles O40: 5 times a digit is at most 75, so it fits `I`. -/
theorem setISpriteLooksUpDigit : Obligations.SetISpriteLooksUpDigit := by
  intro x s
  rcases Nat.lt_or_ge 15 (s.reg x).toNat with other | digit
  · exact ⟨s, exec_setISprite_of_lt other, fun h => by omega, fun _ => rfl, rfl, fun _ => rfl⟩
  · refine ⟨_, exec_setISprite_of_le digit, fun _ => ?_, fun h => by omega, rfl, fun _ => rfl⟩
    rw [BitVec.toNat_ofNat]
    omega

end Sys2Proof.Safety
end

section
/-! The obligations about memory and the state after a load (R31, R33, R41, R212). -/

namespace Sys2Proof.Safety

open Sys2Proof Sys2Proof.Machine

/-- Settles O50. -/
theorem canonicalMemoryIsExtensional : Obligations.CanonicalMemoryIsExtensional := fun _ _ h h' same =>
  Memory.eq_of_read_eq h h' same

/-- Settles O54: the glyphs and the zeros are the memory of construction, which a load keeps outside the ROM. -/
theorem loadedResetState : Obligations.LoadedResetState := by
  intro rom short
  have cells : 0x200 + rom.length ≤ 0x1000 + 1 := by omega
  rcases State.load_cases rom State.reset with ⟨_, eq⟩ | ⟨long, _⟩
  · refine ⟨_, eq, fun r => ?_, rfl, rfl, rfl, rfl, rfl, rfl, rfl, rfl, rfl, ?_, ?_, fun j h => ?_, fun a ha h => ?_⟩
    · exact Vector.getElem_replicate r.isLt
    · exact (readBytes_load_below cells (by decide)).trans (by decide)
    · exact (readBytes_load_below cells (by decide)).trans (by decide)
    · exact read_load_inside cells h
    · exact (read_load_outside cells h).trans (initialByte_of_le ha)
  · exact absurd short (Nat.not_le.mpr long)

end Sys2Proof.Safety
end

section
/-! The obligations about skips on keys, Call, Return and the register gate (R22, R124 to R126, R131, R132). -/

namespace Sys2Proof.Safety

open Sys2Proof Sys2Proof.Machine

/-- A skip changes `pc` alone. -/
theorem onlyPcChanges_skipIf (s : State) (taken : Bool) : OnlyPcChanges s (s.skipIf taken) := by
  rcases s.skipIf_cases taken with ⟨_, eq⟩ | ⟨_, eq⟩ <;> rw [eq] <;> exact ⟨rfl, fun _ => rfl⟩

/-- When a key comparison holds, by the values of the code and the byte. -/
theorem keyMatches_iff_toNat (s : State) (x : Reg) :
    s.keyMatches x = true ↔ ∃ k, s.key = some k ∧ k.toNat = (s.reg x).toNat := by
  rw [State.keyMatches_iff]
  refine exists_congr fun k => and_congr_right fun _ => ?_
  have wide : (k.setWidth 8).toNat = k.toNat := by
    have hk := k.isLt
    rw [BitVec.toNat_setWidth]
    omega
  rw [← wide, BitVec.toNat_inj]

/-- Settles O31. -/
theorem keySkipsAreComplements : Obligations.KeySkipsAreComplements := by
  intro x s
  refine ⟨_, _, rfl, rfl, ?_, ?_, onlyPcChanges_skipIf s _, onlyPcChanges_skipIf s _⟩ <;> rw [← keyMatches_iff_toNat]
  · intro held
    simp [held, State.skipIf]
  · intro other
    simp [other, State.skipIf]

/-- Settles O34. -/
theorem callPushesReturnAddress : Obligations.CallPushesReturnAddress := fun nnn _ =>
  ⟨fun room => ⟨_, exec_call_of_lt nnn room, addrOf_toNat nnn, rfl, rfl, rfl, fun _ => rfl⟩, exec_call_of_le nnn⟩

/-- Settles O35: a Call that completes has pushed its `pc`, which Return finds on top. -/
theorem returnPopsTopEntry : Obligations.ReturnPopsTopEntry := by
  intro s
  refine ⟨fun rest v top => ?_, exec_ret_of_nil, fun nnn t h => ?_⟩
  · exact ⟨_, exec_ret_of_append top, rfl, rfl, rfl, rfl, fun _ => rfl⟩
  · rcases Nat.lt_or_ge s.stack.length 16 with room | full
    · rw [exec_call_of_lt nnn room] at h
      cases h
      exact ⟨_, exec_ret_of_append rfl, rfl⟩
    · rw [exec_call_of_le nnn full] at h
      exact absurd h (raise_ne_next _ _ _)

/-- The register gate writes the register of an index `0..15`. -/
theorem putV_reg (s : State) (x : Reg) (b : Byte) : s.putV x.toNat b = .ok (s.setReg x b) := by
  have inside : x.toNat < numV := x.isLt
  simp only [State.putV, if_pos inside, BitVec.ofNat_toNat, BitVec.setWidth_eq]

/-- Settles O51. -/
theorem registerAccessIsGated : Obligations.RegisterAccessIsGated := by
  intro s b
  refine ⟨fun x => ⟨s.getV_reg x, ?_⟩, fun i hi => ?_⟩
  · exact ⟨_, putV_reg s x b, s.setReg_reg_self x b, fun r hr => s.setReg_reg_of_ne b hr, rfl, fun _ => rfl⟩
  · have outside : ¬ i < numV := Nat.not_lt.mpr hi
    exact ⟨if_neg outside, if_neg outside⟩

end Sys2Proof.Safety
end

section
/-! SUPPORT. Decoding the encoding of a well-formed instruction gives it back, format by format (R71, R74; D1). -/

namespace Sys2Proof

/-- The decoder reads back every well-formed instruction: the fields of its format select its arm. -/
theorem decode_encode {i : Instr} (h : i.WellFormed) : decode (encode i) = .valid i := by
  cases i with
  | clearScreen | ret => rfl
  | jump | call | loadI | jumpAdd => simp [encode, decode, encodeNNN_fields]
  | skipEqualByte | skipNotEqualByte | loadByte | addByte | random => simp [encode, decode, encodeXKK_fields]
  | skipEqualReg | skipNotEqualReg => simp [encode, decode, encodeXYN_fields]
  | loadReg | or | and | xor | addReg | subReg | shiftRight | subN | shiftLeft =>
    simp [encode, decode, decode8, encodeXYN_fields]
  | draw x y n =>
    have rows : n ≤ 15 := of_decide_eq_true h
    have fits : n % 16 = n := Nat.mod_eq_of_lt (by omega)
    simp [encode, decode, encodeXYN_fields, fits]
  | skipKey | skipNotKey => simp [encode, decode, decodeE, encodeX_fields]
  | getDelay | waitKey | setDelay | setSound | addI | setISprite | storeBCD | storeRegI | loadRegI =>
    simp [encode, decode, decodeF, encodeX_fields]

/-- The two bytes of an opcode make it up again (R51). -/
theorem opcodeOfBytes_hi_lo (op : Word) : opcodeOfBytes (opcodeHi op) (opcodeLo op) = op :=
  (BitVec.extractLsb'_append_extractLsb'_eq_extractLsb' rfl).trans BitVec.extractLsb'_eq_self

/-- A table word of 16 bits is the opcode itself. -/
theorem tableOpcode_toNat (op : Word) : tableOpcode 16 op.toNat = op := by
  rw [tableOpcode, Nat.mod_eq_of_lt op.isLt, BitVec.ofNat_toNat, BitVec.setWidth_eq]

/-- The decoder reads a table word that encodes a well-formed instruction. -/
theorem decodeTableWord_encode {i : Instr} (h : i.WellFormed) : decodeTableWord 16 (encode i).toNat = some i := by
  simp only [decodeTableWord, tableOpcode_toNat, opcodeOfBytes_hi_lo, decode_encode h]

end Sys2Proof
end

section
/-! SUPPORT. Where a step fetches, what it reads there, and the state phase 4 starts from (R51, R54, R90 to R93). -/

namespace Sys2Proof.Machine

open Sys2Proof Sys2Proof.Safety

/-- A fetch is illegal below and above the range of R54. -/
theorem fetchable_eq_false_iff (pc : Word) : fetchable pc = false ↔ pc.toNat < 0x200 ∨ 0xFFF ≤ pc.toNat := by
  rw [Bool.eq_false_iff, Ne, fetchable_iff]
  omega

/-- A fetch in the range of R54. -/
theorem fetch_of_legal {s : State} (legal : fetchable s.pc = true) :
    fetch s = .ok (opcodeAt s.mem s.pc.toNat, s.setPc (s.pc + 2)) := if_pos legal

/-- A fetch is legal where `withFetchWord` places its word. -/
theorem fetchable_fetchPoint (pc : Word) : fetchable (fetchPoint pc) = true := by
  unfold fetchPoint
  split
  · assumption
  · decide

/-- The opcode read where one was placed (R51). -/
theorem opcodeAt_placeOpcode {m : Memory} (h : m.wf = true) {a : Nat} (inside : a + 2 ≤ memLast + 1) (op : Word) :
    opcodeAt (placeOpcode m a op) a = op := by
  have read (c : Nat) := Memory.read_writeBytes [opcodeHi op, opcodeLo op] m a c h inside
  simp [opcodeAt, placeOpcode, read, opcodeOfBytes_hi_lo]

/-- Phase 4 starts from the state of a legal fetch after the timer tick. -/
theorem phase4_eq (s : State) : phase4 s = beginExecute (s.setPc (s.pc + 2)) := by
  simp only [phase4, beginExecute, tickTimer_eq]
  rfl

/-- The opcode at the `pc` of `withFetchWord` is the placed one. -/
theorem opcodeAt_withFetchWord {s : State} (h : s.mem.wf = true) (op : Word) :
    opcodeAt (s.withFetchWord 16 op.toNat).mem (s.withFetchWord 16 op.toNat).pc.toNat = op := by
  obtain ⟨_, below⟩ := (fetchable_iff _).mp (fetchable_fetchPoint s.pc)
  have inside : (fetchPoint s.pc).toNat + 2 ≤ 0x1000 + 1 := by omega
  simp only [State.withFetchWord, enableStep_pc, tableOpcode_toNat]
  exact opcodeAt_placeOpcode h inside op

end Sys2Proof.Machine
end

section
/-! SUPPORT. The instructions that access memory through `I`, where an access leaves the array (R55, R187). -/

namespace Sys2Proof.Machine

open Sys2Proof

variable {s : State}

/-- Draw above 15 rows. -/
theorem exec_draw_tall (x y : Reg) {n : Nat} (tall : 15 < n) :
    exec (.draw x y n) s = raise (.invalidSpriteSize n) s := if_pos tall

/-- Draw outside the array. -/
theorem exec_draw_outside (x y : Reg) {n : Nat} (rows : n ≤ 15) (outside : memLast + 1 < s.base + n)
    (nonempty : 0 < n) :
    exec (.draw x y n) s = raise (.memoryOutOfRange (max s.base (memLast + 1))) s :=
  (if_neg (Nat.not_lt.mpr rows)).trans (withCells_outside s s.base n _ outside nonempty)

/-- A store outside the array. -/
theorem storeAtI_outside {bytes : List Byte} (outside : memLast + 1 < s.base + bytes.length)
    (nonempty : 0 < bytes.length) :
    storeAtI bytes s = raise (.memoryOutOfRange (max s.base (memLast + 1))) s :=
  withCells_outside s s.base bytes.length _ outside nonempty

/-- StoreBCD outside the array. -/
theorem exec_storeBCD_outside (x : Reg) (outside : memLast + 1 < s.base + 3) :
    exec (.storeBCD x) s = raise (.memoryOutOfRange (max s.base (memLast + 1))) s :=
  storeAtI_outside outside (Nat.succ_pos 2)

/-- StoreRegI outside the array. -/
theorem exec_storeRegI_outside {x : Reg} (outside : memLast + 1 < s.base + (x.toNat + 1)) :
    exec (.storeRegI x) s = raise (.memoryOutOfRange (max s.base (memLast + 1))) s := by
  rw [← s.regs_length (x.toNat + 1)] at outside
  exact storeAtI_outside outside (by simp)

/-- LoadRegI outside the array. -/
theorem exec_loadRegI_outside {x : Reg} (outside : memLast + 1 < s.base + (x.toNat + 1)) :
    exec (.loadRegI x) s = raise (.memoryOutOfRange (max s.base (memLast + 1))) s :=
  withCells_outside s s.base (x.toNat + 1) _ outside (Nat.succ_pos x.toNat)

end Sys2Proof.Machine
end

section
/-! The obligations about fetch, the placing of a word, Jump, and accesses outside the array (R51, R54, R55, R91, R130,
R187). -/

namespace Sys2Proof.Safety

open Sys2Proof Sys2Proof.Machine

/-- Settles O8: the step is enabled at the fetch point and reads the placed opcode, which decodes to the instruction. -/
theorem placedWordRunsNext : Obligations.PlacedWordRunsNext := by
  intro s i canonical wellFormed
  refine ⟨decodeTableWord_encode wellFormed, ?_⟩
  have decoded := (congrArg decode (opcodeAt_withFetchWord canonical (encode i))).trans (decode_encode wellFormed)
  rw [phase4_eq]
  exact step_of_valid rfl rfl (fetchable_fetchPoint s.pc) decoded

/-- Settles O49: an access of `n` cells passes the array iff its last cell does. -/
theorem dataAccessOutsideRaises : Obligations.DataAccessOutsideRaises := by
  intro x y n s
  refine ⟨exec_draw_tall x y, fun rows nonempty outside => ?_, fun outside => ?_, fun outside => ⟨?_, ?_⟩⟩
  · have past : 0x1000 + 1 < s.base + n := by omega
    exact exec_draw_outside x y rows past nonempty
  · exact exec_storeBCD_outside x (Nat.succ_lt_succ outside)
  · exact exec_storeRegI_outside (Nat.succ_lt_succ outside)
  · exact exec_loadRegI_outside (Nat.succ_lt_succ outside)

/-- Settles O9. -/
theorem fetchChecksRangeAndAdvances : Obligations.FetchChecksRangeAndAdvances := by
  intro s
  refine ⟨fun ready running outside => ?_, fun inside => ?_, fun i enabled decoded => ?_⟩
  · exact step_of_illegal running ready ((fetchable_eq_false_iff s.pc).mpr outside)
  · exact fetch_of_legal ((fetchable_iff s.pc).mpr inside)
  · obtain ⟨ready, running, legal⟩ := (enabled_iff s).mp enabled
    exact ⟨_, step_of_valid running ready legal decoded, rfl, rfl⟩

/-- Settles O32: a target outside the fetch range is left for the next fetch to reject. -/
theorem jumpSetsPc : Obligations.JumpSetsPc := by
  intro nnn s
  refine ⟨⟨s.setPc (addrOf nnn), rfl, addrOf_toNat nnn, ⟨rfl, fun _ => rfl⟩, fun ready running target => ?_⟩,
    fun enabled decoded self => ?_⟩
  · have illegal : fetchable (addrOf nnn) = false := by
      rw [fetchable_eq_false_iff, addrOf_toNat]
      omega
    exact step_of_illegal (s := s.setPc (addrOf nnn)) running ready illegal
  · obtain ⟨ready, running, legal⟩ := (enabled_iff s).mp enabled
    have same : addrOf nnn = s.pc := BitVec.eq_of_toNat_eq ((addrOf_toNat nnn).trans self)
    exact ⟨_, step_of_valid running ready legal decoded, same⟩

end Sys2Proof.Safety
end

section
/-! SUPPORT. Everything the decoder answers: an instruction whose encoding is the opcode, or `Invalid` with the opcode
kept (R72, R74, R76; D1). -/

namespace Sys2Proof

/-! ## An opcode from its own fields -/

section
variable {op : Word} {f : BitVec 4} (family : opFamily op = f)
include family

/-- An opcode in format `NNN`. -/
theorem encodeNNN_opFields : encodeNNN f (opNNN op) = op :=
  BitVec.eq_of_toNat_eq (by rw [encodeNNN_toNat, ← family, opFamily_toNat, opNNN_toNat]; omega)

/-- An opcode in format `XKK`. -/
theorem encodeXKK_opFields : encodeXKK f (opX op) (opKK op) = op :=
  BitVec.eq_of_toNat_eq (by rw [encodeXKK_toNat, ← family, opFamily_toNat, opX_toNat, opKK_toNat]; omega)

/-- An opcode in format `X`. -/
theorem encodeX_opFields {sub : Byte} (low : opKK op = sub) : encodeX f (opX op) sub = op :=
  low ▸ encodeXKK_opFields family

/-- An opcode in formats `XY` and `XYN`. -/
theorem encodeXYN_opFields {n : BitVec 4} (low : opN op = n) : encodeXYN f (opX op) (opY op) n = op :=
  BitVec.eq_of_toNat_eq (by
    rw [encodeXYN_toNat, ← family, ← low, opFamily_toNat, opX_toNat, opY_toNat, opN_toNat]; omega)

end

/-! ## The decoder, family by family -/

/-- The answers a decoder may give to an opcode: an instruction that encodes to it, or `Invalid` with it. -/
inductive DecodesTo (op : Word) : Decoded → Prop where
  | valid {i : Instr} (wellFormed : i.WellFormed) (encoded : encode i = op) : DecodesTo op (.valid i)
  | invalid : DecodesTo op (.invalid op)

/-- Family `0`. -/
theorem decode0_decodesTo (op : Word) : DecodesTo op (decode0 op) := by
  unfold decode0
  split
  next fixed => exact .valid rfl fixed.symm
  next =>
    split
    next fixed => exact .valid rfl fixed.symm
    next => exact .invalid

/-- Family `8`. -/
theorem decode8_decodesTo {op : Word} (family : opFamily op = 0x8#4) : DecodesTo op (decode8 op) := by
  unfold decode8
  split
  case h_10 => exact .invalid
  all_goals
    next low => exact .valid rfl (encodeXYN_opFields family low)

/-- Family `E`. -/
theorem decodeE_decodesTo {op : Word} (family : opFamily op = 0xE#4) : DecodesTo op (decodeE op) := by
  unfold decodeE
  split
  case h_3 => exact .invalid
  all_goals
    next low => exact .valid rfl (encodeX_opFields family low)

/-- Family `F`. -/
theorem decodeF_decodesTo {op : Word} (family : opFamily op = 0xF#4) : DecodesTo op (decodeF op) := by
  unfold decodeF
  split
  case h_10 => exact .invalid
  all_goals
    next low => exact .valid rfl (encodeX_opFields family low)

/-- Everything the decoder answers. -/
theorem decode_decodesTo (op : Word) : DecodesTo op (decode op) := by
  unfold decode
  split
  case h_1 => exact decode0_decodesTo op
  case h_2 | h_3 | h_11 | h_12 => exact .valid rfl (encodeNNN_opFields ‹_›)
  case h_4 | h_5 | h_7 | h_8 | h_13 => exact .valid rfl (encodeXKK_opFields ‹_›)
  case h_6 | h_10 =>
    split
    · exact .valid rfl (encodeXYN_opFields ‹_› ‹_›)
    · exact .invalid
  case h_9 family => exact decode8_decodesTo family
  case h_14 family =>
    refine .valid (decide_eq_true (by omega)) (encodeXYN_opFields family ?_)
    rw [BitVec.ofNat_toNat, BitVec.setWidth_eq]
  case h_15 family => exact decodeE_decodesTo family
  case h_16 =>
    have family : opFamily op = 0xF#4 := by
      simp only [imp_false, ← BitVec.toNat_inj, BitVec.toNat_ofNat] at *
      omega
    exact decodeF_decodesTo family

/-- An opcode that decodes to an instruction is its encoding. -/
theorem encode_of_decode {op : Word} {i : Instr} (decoded : decode op = .valid i) : i.WellFormed ∧ encode i = op := by
  have answer := decode_decodesTo op
  rw [decoded] at answer
  cases answer with
  | valid wellFormed encoded => exact ⟨wellFormed, encoded⟩

/-- `Invalid` keeps the opcode. -/
theorem eq_of_decode_invalid {op bad : Word} (decoded : decode op = .invalid bad) : bad = op := by
  have answer := decode_decodesTo op
  rw [decoded] at answer
  cases answer with
  | invalid => rfl

/-! ## The opcode map (R75) -/

/-- A field whose bits are all fixed by a row has the row's value. -/
theorem extractLsb'_of_and {op mask bits : Word} {start len : Nat} (h : op &&& mask = bits)
    (ones : mask.extractLsb' start len = BitVec.allOnes len) :
    op.extractLsb' start len = bits.extractLsb' start len := by
  rw [← h, BitVec.extractLsb'_and, ones, BitVec.and_allOnes]

section
variable {op : Word} {r : OpcodeRow} (h : op &&& r.mask = r.bits)
include h

/-- A row that fixes the family alone: the family selects its variant. -/
theorem decode_of_rowWide (hr : r ∈ opcodeRowsWide) : ∃ i, decode op = .valid i ∧ i.mnemonic = r.variant := by
  simp only [opcodeRowsWide, List.mem_cons, List.not_mem_nil, or_false] at hr
  rcases hr with rfl | rfl | rfl | rfl | rfl | rfl | rfl | rfl | rfl | rfl
  all_goals
    have family : opFamily op = opFamily _ := extractLsb'_of_and h rfl
    exact ⟨_, by rw [decode, family]; rfl, rfl⟩

/-- A row that also fixes the low nibble: the family and the nibble select its variant. -/
theorem decode_of_rowNibble (hr : r ∈ opcodeRowsNibble) : ∃ i, decode op = .valid i ∧ i.mnemonic = r.variant := by
  simp only [opcodeRowsNibble, List.mem_cons, List.not_mem_nil, or_false] at hr
  rcases hr with rfl | rfl | rfl | rfl | rfl | rfl | rfl | rfl | rfl | rfl | rfl
  all_goals
    have family : opFamily op = opFamily _ := extractLsb'_of_and h rfl
    have low : opN op = opN _ := extractLsb'_of_and h rfl
    exact ⟨_, by rw [decode, decode8, family, low]; rfl, rfl⟩

/-- A row that also fixes the low byte: it is the opcode itself, or the family and the byte select its variant. -/
theorem decode_of_rowByte (hr : r ∈ opcodeRowsByte) : ∃ i, decode op = .valid i ∧ i.mnemonic = r.variant := by
  simp only [opcodeRowsByte, List.mem_cons, List.not_mem_nil, or_false] at hr
  rcases hr with rfl | rfl | hr
  case inl | inr.inl =>
    obtain rfl := BitVec.and_allOnes.symm.trans h
    exact ⟨_, rfl, rfl⟩
  rcases hr with rfl | rfl | rfl | rfl | rfl | rfl | rfl | rfl | rfl | rfl | rfl
  all_goals
    have family : opFamily op = opFamily _ := extractLsb'_of_and h rfl
    have low : opKK op = opKK _ := extractLsb'_of_and h rfl
    exact ⟨_, by rw [decode, decodeE, decodeF, family, low]; rfl, rfl⟩

/-- An opcode that selects a row decodes to the row's variant. -/
theorem decode_of_row (hr : r ∈ opcodeMap) : ∃ i, decode op = .valid i ∧ i.mnemonic = r.variant := by
  rcases List.mem_append.mp hr with hr | byte
  · rcases List.mem_append.mp hr with wide | nibble
    · exact decode_of_rowWide h wide
    · exact decode_of_rowNibble h nibble
  · exact decode_of_rowByte h byte

end

/-- The encoding of every well-formed instruction lies in the row of its name. -/
theorem Laws.EncodedInRow.statement : ∀ i : Instr, Statement i
  | .clearScreen => clearScreen
  | .ret => ret
  | .jump nnn => jump nnn
  | .call nnn => call nnn
  | .skipEqualByte x kk => skipEqualByte x kk
  | .skipNotEqualByte x kk => skipNotEqualByte x kk
  | .skipEqualReg x y => skipEqualReg x y
  | .loadByte x kk => loadByte x kk
  | .addByte x kk => addByte x kk
  | .loadReg x y => loadReg x y
  | .or x y => or x y
  | .and x y => and x y
  | .xor x y => xor x y
  | .addReg x y => addReg x y
  | .subReg x y => subReg x y
  | .shiftRight x y => shiftRight x y
  | .subN x y => subN x y
  | .shiftLeft x y => shiftLeft x y
  | .skipNotEqualReg x y => skipNotEqualReg x y
  | .loadI nnn => loadI nnn
  | .jumpAdd nnn => jumpAdd nnn
  | .random x kk => random x kk
  | .draw x y n => draw x y n
  | .skipKey x => skipKey x
  | .skipNotKey x => skipNotKey x
  | .getDelay x => getDelay x
  | .waitKey x => waitKey x
  | .setDelay x => setDelay x
  | .setSound x => setSound x
  | .addI x => addI x
  | .setISprite x => setISprite x
  | .storeBCD x => storeBCD x
  | .storeRegI x => storeRegI x
  | .loadRegI x => loadRegI x

/-- An opcode that decodes to an instruction selects the row of its name. -/
theorem row_of_decode {op : Word} {i : Instr} (decoded : decode op = .valid i) :
    ∃ r ∈ opcodeMap, r.variant = i.mnemonic ∧ op &&& r.mask = r.bits := by
  obtain ⟨wellFormed, rfl⟩ := encode_of_decode decoded
  obtain ⟨r, mem, name, selects⟩ := Laws.EncodedInRow.statement i wellFormed
  exact ⟨r, mem, name, eq_of_beq selects⟩

/-- A row is known by its name. -/
theorem row_eq_of_variant_eq {r q : OpcodeRow} (hr : r ∈ opcodeMap) (hq : q ∈ opcodeMap)
    (h : r.variant = q.variant) : r = q := by
  have names : (opcodeMap.map (·.variant)).Nodup := by decide
  exact List.inj_on_of_nodup_map names hr hq h

end Sys2Proof
end

section
/-! The obligations of the encoding, and what a step does with an opcode of no row. -/

namespace Sys2Proof.Safety

open Sys2Proof Sys2Proof.Machine

/-- Settles O1. -/
theorem decodeEncodeRoundTrip : Obligations.DecodeEncodeRoundTrip := fun _ => decode_encode

/-- Settles O2. -/
theorem encodeDecodeRoundTrip : Obligations.EncodeDecodeRoundTrip := fun _ _ => encode_of_decode

/-- Settles O3: an opcode that decodes to an instruction selects a row of its name, and a name has one row. -/
theorem opcodeMapSelectsVariant : Obligations.OpcodeMapSelectsVariant := by
  intro op r hr
  refine ⟨fun ⟨i, decoded, name⟩ => ?_, fun selects => decode_of_row selects hr⟩
  obtain ⟨q, hq, qName, selects⟩ := row_of_decode decoded
  obtain rfl := row_eq_of_variant_eq hq hr (qName.trans name)
  exact selects

/-- Settles O4: an opcode that selects a row decodes to an instruction, and one that decodes to an instruction selects
a row. -/
theorem invalidIffNoPattern : Obligations.InvalidIffNoPattern := by
  intro op bad
  refine ⟨fun decoded => ⟨eq_of_decode_invalid decoded, fun r hr selects => ?_⟩, fun ⟨same, noRow⟩ => ?_⟩
  · obtain ⟨i, valid, _⟩ := decode_of_row selects hr
    simp [decoded] at valid
  · cases decoded : decode op with
    | valid i =>
      obtain ⟨r, hr, _, selects⟩ := row_of_decode decoded
      exact absurd selects (noRow r hr)
    | invalid kept => rw [eq_of_decode_invalid decoded, same]

/-- Settles O5: an opcode of two rows decodes to one instruction, whose name both rows bear. -/
theorem opcodeMapRowsDisjoint : Obligations.OpcodeMapRowsDisjoint := by
  refine ⟨rfl, fun op r q hr hq rSelects qSelects => ?_⟩
  obtain ⟨i, iDecoded, rName⟩ := decode_of_row rSelects hr
  obtain ⟨j, jDecoded, qName⟩ := decode_of_row qSelects hq
  obtain rfl : i = j := Decoded.valid.inj (iDecoded.symm.trans jDecoded)
  exact row_eq_of_variant_eq hr hq (rName.symm.trans qName)

/-- Settles O10: the opcode decodes to `Invalid` with itself kept. -/
theorem invalidOpcodeRaises : Obligations.InvalidOpcodeRaises := by
  intro s enabled noRow
  obtain ⟨ready, running, legal⟩ := (enabled_iff s).mp enabled
  have decoded := (invalidIffNoPattern (opcodeAtPc s) (opcodeAtPc s)).mpr ⟨rfl, noRow⟩
  rw [phase4_eq]
  exact step_of_invalid running ready legal decoded

/-- Settles O15: a step is blocked, raises, or ends an instruction, which completes or raises. -/
theorem nothingIsRefused : Obligations.NothingIsRefused := by
  intro s r
  rcases step_cases s with ⟨_, eq⟩ | ⟨_, _, eq⟩ | ⟨_, _, _, eq⟩ | ⟨_, _, _, _, _, eq⟩ | ⟨i, _, _, _, _, eq⟩ <;> rw [eq]
  · nofun
  · nofun
  · nofun
  · nofun
  · rcases exec_cases i (beginExecute (s.setPc (s.pc + 2))) with ⟨t, completes, _⟩ | ⟨e, raises⟩
    · rw [completes]
      nofun
    · rw [raises]
      nofun

/-- Settles O6: the ten words are closed, so the decoder runs on each. -/
theorem specWordsDecode : Obligations.SpecWordsDecode := by
  unfold Obligations.SpecWordsDecode
  decide

end Sys2Proof.Safety
end

section
/-! The obligations about a whole step that meets an instruction: it runs the instruction from the state of phase 4, and
a WaitKey without a key undoes the fetch (R90 to R94, R156; C1). -/

namespace Sys2Proof.Safety

open Sys2Proof Sys2Proof.Machine

/-- A step from an enabled state that meets an instruction. -/
theorem step_of_enabled {s : State} {i : Instr} (enabled : Enabled s) (decoded : decode (opcodeAtPc s) = .valid i) :
    step s = endStep (exec i (phase4 s)) := by
  obtain ⟨ready, running, legal⟩ := (enabled_iff s).mp enabled
  rw [phase4_eq]
  exact step_of_valid running ready legal decoded

/-- A waiting WaitKey takes back the advance of `pc`, so it leaves the state before the fetch with the timers ticked. -/
theorem exec_waitKey_phase4 {s : State} (x : Reg) (noKey : s.key = none) :
    exec (.waitKey x) (phase4 s) = .next (beginExecute s) := by
  have back : s.pc + 2 - 2 = s.pc := BitVec.add_sub_cancel s.pc 2
  calc exec (.waitKey x) (phase4 s)
      = .next ((phase4 s).setPc (s.pc + 2 - 2)) := exec_waitKey_of_none x noKey
    _ = .next (beginExecute s) := by rw [back, phase4_eq]; rfl

/-- Settles O7: the end of a step keeps a fault and moves a next state on to the next key input. -/
theorem stepRunsDecodedInstruction : Obligations.StepRunsDecodedInstruction := by
  intro s i enabled decoded
  rw [step_of_enabled enabled decoded]
  cases exec i (phase4 s) with
  | next t | fault r | refused r => rfl

/-- Settles O42: what is left of a waiting step is the timer tick and the next step's key input. -/
theorem waitingStepKeepsPc : Obligations.WaitingStepKeepsPc := by
  intro s x enabled decoded noKey
  have waits : step s = .next (beginExecute s).nextKey := by
    rw [step_of_enabled enabled decoded, exec_waitKey_phase4 x noKey]
    rfl
  exact ⟨_, waits, rfl, tickTimer_toNat s.DT, tickTimer_toNat s.ST, rfl⟩

end Sys2Proof.Safety
end

section
/-! SUPPORT. The values and the writes of the arithmetic and shift instructions: what each exact result and each flag
is, and which write each register keeps (R101, R108 to R114). -/

namespace Sys2Proof.Machine

open Sys2Proof Sys2Proof.Safety

/-! ## Results (R110, R113, R114) -/

/-- The sum modulo 256. -/
theorem sum_toNat (a b : Byte) : (BitVec.ofNat 8 (sumOf a b)).toNat = (a.toNat + b.toNat) % 256 :=
  BitVec.toNat_ofNat ..

/-- A sum that does not carry is exact. -/
theorem sum_toNat_of_le {a b : Byte} (noCarry : a.toNat + b.toNat ≤ 255) :
    (BitVec.ofNat 8 (sumOf a b)).toNat = a.toNat + b.toNat := by
  rw [sum_toNat]
  omega

/-- A sum that carries loses 256. -/
theorem sum_toNat_of_gt {a b : Byte} (carry : a.toNat + b.toNat > 255) :
    (BitVec.ofNat 8 (sumOf a b)).toNat = a.toNat + b.toNat - 256 := by
  have ha := a.isLt
  have hb := b.isLt
  rw [sum_toNat]
  omega

/-- The difference modulo 256: the subtrahend added to it gives the minuend back. -/
theorem differenceOf_toNat_add (a b : Byte) : ((differenceOf a b).toNat + b.toNat) % 256 = a.toNat := by
  have ha := a.isLt
  have hb := b.isLt
  rw [differenceOf, BitVec.toNat_ofNat]
  omega

/-- A right shift halves. -/
theorem shiftedRight_toNat (v : Byte) : (shiftedRight v).toNat = v.toNat / 2 := by
  have hv := v.isLt
  rw [shiftedRight, BitVec.toNat_ofNat]
  omega

/-- A left shift doubles modulo 256. -/
theorem shiftedLeft_toNat (v : Byte) : (shiftedLeft v).toNat = v.toNat * 2 % 256 := BitVec.toNat_ofNat ..

/-! ## The tested bits of the shifts (R110, R113, conflict C4) -/

/-- A run of 1 bits upward from bit `i` is not empty iff bit `i` is 1. -/
theorem onesUp_pos_iff (v : Byte) (i fuel : Nat) : onesUp v i (fuel + 1) > 0 ↔ v.getLsbD i = true := by
  rw [onesUp]
  split <;> simp [*]

/-- A run of 1 bits downward from bit `k` is not empty iff bit `k` is 1. -/
theorem onesDown_pos_iff (v : Byte) (k : Nat) : onesDown v (k + 1) > 0 ↔ v.getLsbD k = true := by
  rw [onesDown]
  split <;> simp [*]

/-- The flag of ShiftRight by the source's run test. -/
theorem lowBitFlag_eq_trailingOnes (v : Byte) : lowBitFlag v = if trailingOnes v > 0 then 1 else 0 :=
  if_congr (onesUp_pos_iff v 0 7).symm rfl rfl

/-- The flag of ShiftLeft by the source's run test. -/
theorem highBitFlag_eq_leadingOnes (v : Byte) : highBitFlag v = if leadingOnes v > 0 then 1 else 0 :=
  if_congr (onesDown_pos_iff v 7).symm rfl rfl

/-- Bit 0 is the parity. -/
theorem getLsbD_zero_eq (v : Byte) : v.getLsbD 0 = decide (v.toNat % 2 = 1) := by
  rw [BitVec.getLsbD, Nat.testBit_zero]

/-- Bit 7 is the most significant one. -/
theorem getLsbD_seven_eq (v : Byte) : v.getLsbD 7 = decide (128 ≤ v.toNat) := BitVec.msb_eq_decide v

/-! ## Register writes (R101) -/

/-- Writes of two registers commute. -/
theorem State.setReg_comm (s : State) {x y : Reg} (a b : Byte) (h : x ≠ y) :
    (s.setReg x a).setReg y b = (s.setReg y b).setReg x a := by
  have hne : x.toNat ≠ y.toNat := fun e => h (BitVec.eq_of_toNat_eq e)
  simp only [State.setReg, Vector.set_comm a b hne]

section
variable {x : Reg} {result flag : Byte} {s : State}

/-- A destination other than VF keeps the result. -/
theorem writeback_reg_self {o : Config.FlagOrder} (hx : x ≠ 15#4) :
    (writeback o x result flag s).reg x = result := by
  cases o <;> simp [writeback_reg, vf, hx]

/-- VF keeps the flag under a destination other than VF. -/
theorem writeback_reg_vf {o : Config.FlagOrder} (hx : x ≠ 15#4) :
    (writeback o x result flag s).reg 15#4 = flag := by
  cases o <;> simp [writeback_reg, vf, hx.symm]

/-- VF keeps the flag that is written last. -/
theorem writeback_flagLast_reg_vf : (writeback .flagLast x result flag s).reg 15#4 = flag :=
  State.setReg_reg_self ..

/-- The destination keeps the result that is written last. -/
theorem writeback_resultLast_reg_self : (writeback .resultLast x result flag s).reg x = result :=
  State.setReg_reg_self ..

/-- Both orders leave the same state under a destination other than VF. -/
theorem writeback_order_eq (o o' : Config.FlagOrder) (hx : x ≠ 15#4) :
    writeback o x result flag s = writeback o' x result flag s := by
  have swap := State.setReg_comm s result flag hx
  cases o <;> cases o'
  · rfl
  · exact swap
  · exact swap.symm
  · rfl

/-- A shift whose tested bit is 1 writes its flag. -/
theorem shiftWriteback_one (p : Config.Params) :
    shiftWriteback p x result 1 s = writeback p.flagOrder x result 1 s := if_pos (.inl rfl)

/-- A shift that keeps VF on a tested 0 writes its result alone. -/
theorem shiftWriteback_unchanged {p : Config.Params} (keeps : p.shiftVfClear = .unchanged) :
    shiftWriteback p x result 0 s = s.setReg x result := by simp [shiftWriteback, keeps]

/-- The writes of a shift under both orders. -/
theorem shiftWriteback_order_eq (p : Config.Params) (o : Config.FlagOrder) (hx : x ≠ 15#4) :
    shiftWriteback { p with flagOrder := o } x result flag s = shiftWriteback p x result flag s := by
  simp only [shiftWriteback, writeback_order_eq o p.flagOrder hx]

/-- The writes of a non-carrying AddByte under both orders. -/
theorem addByteNoCarry_order_eq (p : Config.Params) (o : Config.FlagOrder) (hx : x ≠ 15#4) :
    addByteNoCarry { p with flagOrder := o } x result s = addByteNoCarry p x result s := by
  simp only [addByteNoCarry, writeback_order_eq o p.flagOrder hx]

end

/-! ## AddByte (R103) -/

section
variable {x : Reg} {kk : Byte} {s : State}

/-- AddByte with a carry. -/
theorem addByteWith_of_gt (p : Config.Params) (carry : (s.reg x).toNat + kk.toNat > 255) :
    addByteWith p x kk s = writeback p.flagOrder x (BitVec.ofNat 8 (sumOf (s.reg x) kk)) 1 s := if_pos carry

/-- AddByte without a carry. -/
theorem addByteWith_of_le (p : Config.Params) (noCarry : (s.reg x).toNat + kk.toNat ≤ 255) :
    addByteWith p x kk s = addByteNoCarry p x (BitVec.ofNat 8 (sumOf (s.reg x) kk)) s :=
  if_neg (Nat.not_lt.mpr noCarry)

/-- AddByte under both orders. -/
theorem addByteWith_order_eq (p : Config.Params) (o : Config.FlagOrder) (hx : x ≠ 15#4) :
    addByteWith { p with flagOrder := o } x kk s = addByteWith p x kk s := by
  simp only [addByteWith, writeback_order_eq o p.flagOrder hx, addByteNoCarry_order_eq p o hx]

end

end Sys2Proof.Machine
end

section
/-! SUPPORT. What a register write, the two writes of a flag-writing instruction, a draw and a shift leave, in the terms
of the claims (R101, R112). -/

namespace Sys2Proof.Safety

open Sys2Proof Sys2Proof.Machine

/-- Everything a write of one register leaves. -/
theorem setReg_leaves (s : State) (x : Reg) (b : Byte) :
    (s.setReg x b).reg x = b ∧ OtherRegsSame x s (s.setReg x b) ∧ OnlyRegsChange s (s.setReg x b) :=
  ⟨s.setReg_reg_self x b, fun _ hr => s.setReg_reg_of_ne b hr, rfl, fun _ => rfl⟩

/-- The writes of a flag-writing instruction keep the registers but the destination and VF. -/
theorem otherRegsSameButVF_writeback {o : Config.FlagOrder} {x : Reg} {result flag : Byte} {s : State} :
    OtherRegsSameButVF x s (writeback o x result flag s) := by
  intro r hr hvf
  cases o <;> simp [writeback_reg, vf, hr, hvf]

/-- The writes of a flag-writing instruction change registers only. -/
theorem onlyRegsChange_writeback {o : Config.FlagOrder} {x : Reg} {result flag : Byte} {s : State} :
    OnlyRegsChange s (writeback o x result flag s) := by
  cases o <;> exact ⟨rfl, fun _ => rfl⟩

/-- Other registers after a draw are those before it. -/
theorem OtherRegsSame.of_afterDraw {x : Reg} {s t : State} (h : OtherRegsSame x s.afterDraw t) :
    OtherRegsSame x s t := fun r hr => (h r hr).trans (s.afterDraw_reg r)

/-- The same with VF excepted. -/
theorem OtherRegsSameButVF.of_afterDraw {x : Reg} {s t : State} (h : OtherRegsSameButVF x s.afterDraw t) :
    OtherRegsSameButVF x s t := fun r hr hvf => (h r hr hvf).trans (s.afterDraw_reg r)

/-- A draw followed by register writes. -/
theorem OnlyRegsChange.of_afterDraw {s t : State} (h : OnlyRegsChange s.afterDraw t) :
    OnlyRegsChangeAndOneDraw s t := by
  obtain ⟨frame, same⟩ := h
  exact ⟨frame, fun a => (same a).trans (by rw [s.afterDraw_mem])⟩

/-- What a shift leaves when both writes are made: the flag is the tested bit, and `SHIFT_VF_CLEAR` is zero where that
bit is 0. -/
theorem shiftLeaves_writeback {p : Config.Params} {tested : Bool} (clears : tested = false → p.shiftVfClear = .zero)
    (x : Reg) (result : Byte) (s : State) :
    ShiftLeaves p x result.toNat tested s (writeback p.flagOrder x result (if tested then 1 else 0) s) := by
  refine ⟨fun hx => by rw [writeback_reg_self hx], fun hx one => ?_, fun hx zero _ => ?_,
    fun _ zero keeps => ?_, fun _ last one => ?_, fun _ last zero _ => ?_, fun hx last => ?_,
    fun _ zero keeps => ?_, otherRegsSameButVF_writeback, onlyRegsChange_writeback⟩
  · rw [writeback_reg_vf hx, one, if_pos rfl]
  · rw [writeback_reg_vf hx, zero, if_neg Bool.false_ne_true]
  · simp [clears zero] at keeps
  · rw [last, writeback_flagLast_reg_vf, one, if_pos rfl]
  · rw [last, writeback_flagLast_reg_vf, zero, if_neg Bool.false_ne_true]
  · rw [last, ← hx, writeback_resultLast_reg_self]
  · simp [clears zero] at keeps

/-- What a shift leaves when the result alone is written: the tested bit is 0 and `SHIFT_VF_CLEAR` keeps VF. -/
theorem shiftLeaves_setReg {p : Config.Params} (keeps : p.shiftVfClear = .unchanged) (x : Reg) (result : Byte)
    (s : State) : ShiftLeaves p x result.toNat false s (s.setReg x result) := by
  obtain ⟨written, others, frame⟩ := setReg_leaves s x result
  refine ⟨fun _ => by rw [written], nofun, fun _ _ clears => ?_, fun hx _ _ => others _ hx.symm, nofun,
    fun _ _ _ clears => ?_, fun hx _ => ?_, fun hx _ _ => ?_, fun r hr _ => others r hr, frame⟩
  · simp [keeps] at clears
  · simp [keeps] at clears
  · rw [← hx, written]
  · rw [← hx, written]

/-- What a shift leaves under every setting of its parameters. -/
theorem shiftLeaves_shiftWriteback (p : Config.Params) (x : Reg) (result : Byte) (tested : Bool) (s : State) :
    ShiftLeaves p x result.toNat tested s (shiftWriteback p x result (if tested then 1 else 0) s) := by
  cases tested with
  | true =>
    have leaves := shiftLeaves_writeback (p := p) (tested := true) nofun x result s
    exact shiftWriteback_one p ▸ leaves
  | false =>
    cases clear : p.shiftVfClear with
    | zero => exact shiftWriteback_zero p clear x result 0 s ▸ shiftLeaves_writeback (fun _ => clear) x result s
    | unchanged => exact shiftWriteback_unchanged clear ▸ shiftLeaves_setReg clear x result s

end Sys2Proof.Safety
end

section
/-! The obligations about load, arithmetic, logic, shift and random instructions (R100 to R115). -/

namespace Sys2Proof.Safety

open Sys2Proof Sys2Proof.Machine

/-- Settles O22: without a carry VF is the draw made before the writes. -/
theorem addByteCarriesOrDrawsVF : Obligations.AddByteCarriesOrDrawsVF := by
  intro x kk s
  refine ⟨fun carry => ?_, fun noCarry => ?_⟩
  · refine ⟨_, congrArg Host.Outcome.next (addByteWith_of_gt params carry), writeback_flagLast_reg_vf, fun hx => ?_,
      otherRegsSameButVF_writeback, onlyRegsChange_writeback⟩
    rw [writeback_reg_self hx, sum_toNat_of_gt carry]
  · refine ⟨writeback .flagLast x _ s.draw8 s.afterDraw,
      congrArg Host.Outcome.next (addByteWith_of_le params noCarry), writeback_flagLast_reg_vf, fun hx => ?_,
      otherRegsSameButVF_writeback.of_afterDraw, onlyRegsChange_writeback.of_afterDraw⟩
    rw [writeback_reg_self hx, sum_toNat_of_le noCarry]

/-- Settles O23. -/
theorem addRegSumsAndSetsCarry : Obligations.AddRegSumsAndSetsCarry := by
  intro x y s
  refine ⟨writeback .flagLast x _ _ s, rfl, writeback_flagLast_reg_vf, fun hx => ?_,
    otherRegsSameButVF_writeback, onlyRegsChange_writeback⟩
  rw [writeback_reg_self hx, sum_toNat]

/-- Settles O24. -/
theorem subtractVariantsSetBorrow : Obligations.SubtractVariantsSetBorrow := by
  intro x y s
  refine ⟨⟨writeback .flagLast x _ _ s, rfl, writeback_flagLast_reg_vf, fun hx => ?_, otherRegsSameButVF_writeback,
      onlyRegsChange_writeback⟩,
    ⟨writeback .flagLast x _ _ s, rfl, writeback_flagLast_reg_vf, fun hx => ?_, otherRegsSameButVF_writeback,
      onlyRegsChange_writeback⟩⟩ <;>
  rw [writeback_reg_self hx, differenceOf_toNat_add]

/-- Settles O25: VF is written on a tested 0 too, and the tested bit is the first one of the source's run. -/
theorem shiftsSetRunTestFlag : Obligations.ShiftsSetRunTestFlag := by
  intro x y s
  refine ⟨⟨_, congrArg Host.Outcome.next (shiftWriteback_zero params rfl ..), ?_, fun hx => ?_,
      otherRegsSameButVF_writeback, onlyRegsChange_writeback⟩,
    ⟨_, congrArg Host.Outcome.next (shiftWriteback_zero params rfl ..), ?_, fun hx => ?_,
      otherRegsSameButVF_writeback, onlyRegsChange_writeback⟩⟩
  · exact writeback_flagLast_reg_vf.trans (lowBitFlag_eq_trailingOnes (s.reg x))
  · rw [writeback_reg_self hx]
    exact shiftedRight_toNat (s.reg x)
  · exact writeback_flagLast_reg_vf.trans (highBitFlag_eq_leadingOnes (s.reg x))
  · rw [writeback_reg_self hx]
    exact shiftedLeft_toNat (s.reg x)

/-- Settles O27: every flag-writing operation ends in `writeback`, whose two writes commute under `x ≠ 15`. -/
theorem flagOrderMattersOnlyForVF : Obligations.FlagOrderMattersOnlyForVF := by
  intro p o x y kk s
  refine ⟨fun hx => ⟨addByteWith_order_eq p o hx, ?_, ?_, ?_, ?_, ?_⟩, writeback_flagLast_reg_vf, ?_⟩
  · exact writeback_order_eq o p.flagOrder hx
  · exact writeback_order_eq o p.flagOrder hx
  · exact writeback_order_eq o p.flagOrder hx
  · exact shiftWriteback_order_eq p o hx
  · exact shiftWriteback_order_eq p o hx
  · exact (congrArg BitVec.toNat writeback_resultLast_reg_self).trans (sum_toNat (s.reg 15#4) (s.reg y))

/-- Settles O20. -/
theorem loadByteWritesImmediate : Obligations.LoadByteWritesImmediate := fun x kk s =>
  ⟨_, rfl, setReg_leaves s x kk⟩

/-- Settles O21: each of the four is one register write. -/
theorem moveAndLogicWriteDestination : Obligations.MoveAndLogicWriteDestination := fun x _ s =>
  ⟨⟨_, rfl, setReg_leaves s x _⟩, ⟨_, rfl, setReg_leaves s x _⟩, ⟨_, rfl, setReg_leaves s x _⟩,
    ⟨_, rfl, setReg_leaves s x _⟩⟩

/-- Settles O26: a draw, then one register write. -/
theorem randomMasksFreeByte : Obligations.RandomMasksFreeByte := by
  intro x kk s
  obtain ⟨written, others, frame⟩ := setReg_leaves s.afterDraw x (s.draw8 &&& kk)
  exact ⟨_, rfl, written, others.of_afterDraw, frame.of_afterDraw⟩

/-- Settles O28, by the three forms of the write of a sum that does not carry. -/
theorem addByteParameterForms : Obligations.AddByteParameterForms := by
  intro p x kk s noCarry hx
  rw [addByteWith_of_le p noCarry, ← sum_toNat_of_le noCarry]
  rcases addByteNoCarry_cases p x (BitVec.ofNat 8 (sumOf (s.reg x) kk)) s with ⟨form, eq⟩ | ⟨form, eq⟩ | ⟨form, eq⟩ <;>
    rw [eq, form]
  · exact ⟨by rw [writeback_reg_self hx], fun _ => writeback_reg_vf hx, nofun, nofun⟩
  · exact ⟨by rw [State.setReg_reg_self], nofun, fun _ => State.setReg_reg_of_ne _ _ hx.symm, nofun⟩
  · exact ⟨by rw [writeback_reg_self hx], nofun, nofun, fun _ => writeback_reg_vf hx⟩

/-- Settles O29: the flag is the tested bit of the operand, so `shiftLeaves_shiftWriteback` covers both shifts. -/
theorem shiftParameterForms : Obligations.ShiftParameterForms := by
  rintro p x y s v rfl
  refine ⟨fun source => by rw [source]; rfl, fun source => by rw [source]; rfl, ?_, ?_⟩
  · rw [← shiftedRight_toNat, ← getLsbD_zero_eq]
    exact shiftLeaves_shiftWriteback p x _ _ s
  · rw [← shiftedLeft_toNat, ← getLsbD_seven_eq]
    exact shiftLeaves_shiftWriteback p x _ _ s

end Sys2Proof.Safety
end

section
/-! The obligation about the byte and register skips (R120 to R123, R126). -/

namespace Sys2Proof.Machine

/-- The condition alone decides where a skip leaves `pc`. -/
@[simp] theorem State.skipIf_pc (s : State) (taken : Bool) :
    (s.skipIf taken).pc = if taken then s.pc + 2 else s.pc := by
  cases taken
  · rfl
  · rfl

end Sys2Proof.Machine

namespace Sys2Proof.Safety

open Sys2Proof Sys2Proof.Machine

/-- What a skip on a decidable condition leaves: `pc` by the condition, and nothing else changed. -/
theorem skipIf_decide_leaves (s : State) (cond : Prop) [Decidable cond] :
    (s.skipIf (decide cond)).pc = (if cond then s.pc + 2 else s.pc) ∧ OnlyPcChanges s (s.skipIf (decide cond)) :=
  ⟨by simp only [State.skipIf_pc, decide_eq_true_eq], onlyPcChanges_skipIf s _⟩

/-- Settles O30: each of the four is one skip on its comparison. -/
theorem skipFormsCompareRegisters : Obligations.SkipFormsCompareRegisters := fun x y kk s =>
  ⟨⟨_, rfl, skipIf_decide_leaves s (s.reg x = kk)⟩, ⟨_, rfl, skipIf_decide_leaves s (s.reg x ≠ kk)⟩,
    ⟨_, rfl, skipIf_decide_leaves s (s.reg x = s.reg y)⟩, ⟨_, rfl, skipIf_decide_leaves s (s.reg x ≠ s.reg y)⟩⟩

end Sys2Proof.Safety
end

section
/-! The obligations about JumpAdd and about Call followed by Return (R131 to R133). -/

namespace Sys2Proof.Safety

open Sys2Proof Sys2Proof.Machine

/-- Settles O33: the sum of a 12-bit address and a byte fits 16 bits. -/
theorem jumpAddKeepsFullSum : Obligations.JumpAddKeepsFullSum := fun nnn s =>
  ⟨s.setPc (s.jumpAddTarget nnn), rfl, s.jumpAddTarget_toNat nnn, rfl, fun _ => rfl⟩

/-- Settles O36: Return pops the entry Call pushed, and the step of `sp` up and down again cancels. -/
theorem callThenReturnRestores : Obligations.CallThenReturnRestores := by
  intro nnn s room
  refine ⟨_, exec_call_of_lt nnn room, List.length_append, ?_⟩
  have spBack : s.sp + 1 - 1 = s.sp := BitVec.add_sub_cancel s.sp 1
  rw [exec_ret_of_append (rest := s.stack) (v := s.pc) rfl, spBack]

end Sys2Proof.Safety
end

section
/-! The obligation about ClearScreen (R140). -/

namespace Sys2Proof.Safety

open Sys2Proof Sys2Proof.Machine

/-- A Draw that completes on an empty sprite list leaves the new sprite alone, and the directive that draws it. -/
theorem draw_of_sprites_nil {x y : Reg} {n : Nat} {s t : State} (empty : s.sprites = [])
    (drawn : exec (.draw x y n) s = .next t) :
    ∃ p, t.sprites = [p] ∧ t.directive = .draw (spriteToRects p.bytes p.x p.y) := by
  obtain rfl := execDraw_next x y n s t drawn
  exact ⟨s.spriteAt x y n, by rw [State.place_sprites, empty, List.nil_append], State.place_directive _ _⟩

/-- Settles O37: the state ClearScreen leaves has no sprite, so a Draw there appends to the empty list. -/
theorem clearScreenEmptiesSprites : Obligations.ClearScreenEmptiesSprites := fun _ =>
  ⟨_, rfl, rfl, rfl, ⟨rfl, fun _ => rfl⟩, fun _ _ _ _ => draw_of_sprites_nil rfl⟩

end Sys2Proof.Safety
end

section
/-! The obligations about WaitKey and the timer instructions (R156, R158 to R160). -/

namespace Sys2Proof.Safety

open Sys2Proof Sys2Proof.Machine

/-- Settles O41: a step back of `pc` without a key, one register write with one; the code keeps its value as a byte. -/
theorem waitKeyWaitsOrStoresCode : Obligations.WaitKeyWaitsOrStoresCode := by
  intro x s
  refine ⟨fun noKey => ⟨_, exec_waitKey_of_none x noKey, rfl, rfl, fun _ => rfl⟩, fun k held => ?_⟩
  obtain ⟨written, others, frame⟩ := setReg_leaves s x (k.setWidth 8)
  have codeKept : (k.setWidth 8).toNat = k.toNat := BitVec.toNat_setWidth_of_le (by decide)
  exact ⟨_, exec_waitKey_of_some x held, (congrArg BitVec.toNat written).trans codeKept, others, frame⟩

/-- Settles O43: GetDelay is one register write, the other two write their timer alone. -/
theorem timerInstructionsMoveTimers : Obligations.TimerInstructionsMoveTimers := fun x s =>
  ⟨⟨_, rfl, setReg_leaves s x s.DT⟩, ⟨{ s with DT := s.reg x }, rfl, rfl, rfl, fun _ => rfl⟩,
    ⟨{ s with ST := s.reg x }, rfl, rfl, rfl, fun _ => rfl⟩⟩

end Sys2Proof.Safety
end

section
/-! SUPPORT. Accesses to memory through `I` inside the array (R55, R167 to R169): the cells a store writes and the cells
it keeps, the decimal digits of a byte, and the registers a block load writes. -/

namespace Sys2Proof.Machine

open Sys2Proof Sys2Proof.Safety

/-! ## Stores -/

section
variable {bytes : List Byte} {m : Memory} {a : Nat} (canonical : m.wf = true) (inside : a + bytes.length ≤ memLast + 1)
include canonical inside

/-- A written cell reads as the byte written there. -/
theorem Memory.read_writeBytes_add {j : Nat} (h : j < bytes.length) : (m.writeBytes a bytes).read (a + j) = bytes[j] := by
  rw [Memory.read_writeBytes bytes m a _ canonical inside, dif_pos (by omega)]
  simp only [Nat.add_sub_cancel_left]

/-- A cell outside the written block reads as before. -/
theorem Memory.read_writeBytes_outside {c : Nat} (h : c < a ∨ a + bytes.length ≤ c) :
    (m.writeBytes a bytes).read c = m.read c := by
  rw [Memory.read_writeBytes bytes m a c canonical inside, dif_neg (by omega)]

end

/-- Everything a store through `I` leaves inside the array: the bytes in their cells, and nothing else changed. -/
theorem storeAtI_leaves {s : State} {bytes : List Byte} (canonical : s.mem.wf = true)
    (inside : s.base + bytes.length ≤ memLast + 1) :
    ∃ t, storeAtI bytes s = .next t ∧ (∀ j, ∀ h : j < bytes.length, t.mem.read (s.base + j) = bytes[j]) ∧
      OnlyCellsChange s.base bytes.length s t :=
  ⟨{ s with mem := s.mem.writeBytes s.base bytes }, withCells_inside s s.base bytes.length _ (.inl inside),
    fun _ => Memory.read_writeBytes_add canonical inside, rfl, fun _ => Memory.read_writeBytes_outside canonical inside⟩

/-- The digits of a byte as numbers: hundreds, tens, units. -/
theorem bcdDigits_cases (v : Byte) : ∃ hundreds tens units, bcdDigits v = [hundreds, tens, units] ∧
    hundreds.toNat = v.toNat / 100 ∧ tens.toNat = v.toNat / 10 % 10 ∧ units.toNat = v.toNat % 10 := by
  have fits {d : Nat} (h : d < 10) : (BitVec.ofNat 8 d).toNat = d :=
    (BitVec.toNat_ofNat d 8).trans (Nat.mod_eq_of_lt (by omega))
  exact ⟨_, _, _, rfl, fits (by omega), fits (by omega), fits (by omega)⟩

/-! ## Block loads -/

/-- LoadRegI inside the array. -/
theorem exec_loadRegI_inside {s : State} {x : Reg} (inside : s.base + (x.toNat + 1) ≤ memLast + 1) :
    exec (.loadRegI x) s = .next (s.loadRegs s.base (x.toNat + 1)) :=
  withCells_inside s s.base (x.toNat + 1) _ (.inl inside)

/-- A block load keeps memory. -/
@[simp] theorem State.loadRegs_mem (s : State) (base n : Nat) : (s.loadRegs base n).mem = s.mem := by
  rw [State.loadRegs_frame]

/-- A block load of cells that hold the registers already changes nothing. -/
theorem State.loadRegs_eq_self {s : State} {base n : Nat} (hn : n ≤ 16)
    (held : ∀ r : Reg, r.toNat < n → s.mem.read (base + r.toNat) = s.reg r) : s.loadRegs base n = s := by
  have sameV : (s.loadRegs base n).V = s.V := State.V_ext _ _ fun r => by
    rw [s.loadRegs_reg base n hn]
    split
    · exact held r ‹_›
    · rfl
  rw [State.loadRegs_frame, sameV]

end Sys2Proof.Machine
end

section
/-! The obligations about the index register and the instructions that access memory through it (R165 to R170). -/

namespace Sys2Proof.Safety

open Sys2Proof Sys2Proof.Machine

/-- Settles O45: a store of three bytes, which are the decimal digits. -/
theorem storeBCDWritesDigits : Obligations.StoreBCDWritesDigits := by
  intro x s canonical inside
  obtain ⟨hundreds, tens, units, digits, toNat_hundreds, toNat_tens, toNat_units⟩ := bcdDigits_cases (s.reg x)
  obtain ⟨t, stored, cells, frame⟩ :=
    storeAtI_leaves (bytes := [hundreds, tens, units]) canonical (Nat.succ_le_succ inside)
  rw [← digits] at stored
  rw [← toNat_hundreds, ← toNat_tens, ← toNat_units]
  have read (j : Nat) (h : j < 3) := congrArg BitVec.toNat (cells j h)
  exact ⟨t, stored, read 0 (by decide), read 1 (by decide), read 2 (by decide), frame⟩

/-- Settles O46: a store of the first `x + 1` registers. -/
theorem storeRegICopiesRegisters : Obligations.StoreRegICopiesRegisters := by
  intro x s canonical inside
  obtain ⟨t, stored, cells, frame⟩ := storeAtI_leaves (bytes := s.regs (x.toNat + 1)) canonical
    (by rw [State.regs_length]; exact Nat.succ_le_succ inside)
  rw [State.regs_length] at frame
  refine ⟨t, stored, fun k hk => ?_, frame⟩
  rw [cells k.toNat (by rw [State.regs_length]; omega), State.regs_getElem, BitVec.ofNat_toNat, BitVec.setWidth_eq]

/-- Settles O47: a block load of `x + 1` registers. -/
theorem loadRegICopiesCells : Obligations.LoadRegICopiesCells := by
  intro x s inside
  have loaded := s.loadRegs_reg s.base (x.toNat + 1) (by omega)
  refine ⟨_, exec_loadRegI_inside (Nat.succ_le_succ inside), fun k hk => ?_, fun k hk => ?_, s.loadRegs_frame _ _,
    fun a => by rw [State.loadRegs_mem]⟩
  · rw [loaded, if_pos (by omega)]
  · rw [loaded, if_neg (by omega)]

/-- Settles O48: the stored cells hold the registers, which the store kept with `I`, so the load writes what is there. -/
theorem loadAfterStoreKeepsRegisters : Obligations.LoadAfterStoreKeepsRegisters := by
  intro x s canonical inside
  obtain ⟨t, stored, cells, frame, _⟩ := storeRegICopiesRegisters x s canonical inside
  have sameV : t.V = s.V := by rw [frame]
  have sameBase : t.base = s.base := by rw [frame]
  have sameReg (k : Reg) : t.reg k = s.reg k := by simp only [State.reg, sameV]
  refine ⟨t, stored, sameV, ?_⟩
  rw [exec_loadRegI_inside (by rw [sameBase]; exact Nat.succ_le_succ inside), State.loadRegs_eq_self (by omega)]
  intro k hk
  rw [sameBase, sameReg, cells k (by omega)]

/-- Settles O44: each writes `I` alone, a zero-extended address or a 16-bit sum. -/
theorem indexInstructionsWriteI : Obligations.IndexInstructionsWriteI := fun nnn x s =>
  ⟨⟨{ s with I := addrOf nnn }, rfl, addrOf_toNat nnn, rfl, fun _ => rfl⟩,
    ⟨{ s with I := BitVec.ofNat 16 (s.I.toNat + (s.reg x).toNat) }, rfl, BitVec.toNat_ofNat _ 16, rfl, fun _ => rfl⟩⟩

end Sys2Proof.Safety
end

section
/-! SUPPORT. When the instructions that can raise do raise (R183, R186 to R188; D10, D11): exactly outside the condition
under which each completes. -/

namespace Sys2Proof.Machine

open Sys2Proof

variable {s : State}

/-- An instruction that completes does not stop. -/
theorem not_fault_of_next {o : Outcome} {t : State} (completes : o = .next t) : ¬ ∃ r, o = .fault r := by
  rintro ⟨r, stops⟩
  exact nomatch completes.symm.trans stops

/-- A data access stops iff it has a cell and its last cell is outside the array. -/
theorem withCells_fault_iff {base n : Nat} {t : State} :
    (∃ r, withCells s base n (.next t) = .fault r) ↔ 0 < n ∧ memLast < base + (n - 1) := by
  rcases withCells_cases s base n (.next t) with ⟨inside, eq⟩ | ⟨outside, nonempty, eq⟩
  · exact iff_of_false (not_fault_of_next eq) (by omega)
  · exact iff_of_true ⟨_, eq⟩ ⟨nonempty, by omega⟩

/-- When Return stops. -/
theorem exec_ret_fault_iff : (∃ r, exec .ret s = .fault r) ↔ s.stack = [] := by
  rcases s.stack.eq_nil_or_concat' with empty | ⟨rest, v, top⟩
  · exact iff_of_true ⟨_, exec_ret_of_nil empty⟩ empty
  · exact iff_of_false (not_fault_of_next (exec_ret_of_append top)) (by simp [top])

/-- When Call stops. -/
theorem exec_call_fault_iff (nnn : Addr) : (∃ r, exec (.call nnn) s = .fault r) ↔ 16 ≤ s.stack.length := by
  rcases Nat.lt_or_ge s.stack.length 16 with room | full
  · exact iff_of_false (not_fault_of_next (exec_call_of_lt nnn room)) (Nat.not_le.mpr room)
  · exact iff_of_true ⟨_, exec_call_of_le nnn full⟩ full

/-- When Draw stops. -/
theorem exec_draw_fault_iff (x y : Reg) (n : Nat) :
    (∃ r, exec (.draw x y n) s = .fault r) ↔ 15 < n ∨ (0 < n ∧ memLast < s.base + (n - 1)) := by
  rcases Nat.lt_or_ge 15 n with tall | rows
  · exact iff_of_true ⟨_, exec_draw_tall x y tall⟩ (.inl tall)
  · have access : exec (.draw x y n) s = withCells s s.base n (.next (s.place (s.spriteAt x y n))) :=
      if_neg (Nat.not_lt.mpr rows)
    rw [access, withCells_fault_iff, or_iff_right (Nat.not_lt.mpr rows)]

/-- When StoreBCD stops. -/
theorem exec_storeBCD_fault_iff (x : Reg) : (∃ r, exec (.storeBCD x) s = .fault r) ↔ memLast < s.base + 2 :=
  withCells_fault_iff.trans (and_iff_right (Nat.succ_pos 2))

/-- When StoreRegI stops. -/
theorem exec_storeRegI_fault_iff (x : Reg) :
    (∃ r, exec (.storeRegI x) s = .fault r) ↔ memLast < s.base + x.toNat := by
  refine withCells_fault_iff.trans ?_
  rw [State.regs_length, Nat.add_sub_cancel]
  exact and_iff_right (Nat.succ_pos x.toNat)

/-- When LoadRegI stops. -/
theorem exec_loadRegI_fault_iff (x : Reg) : (∃ r, exec (.loadRegI x) s = .fault r) ↔ memLast < s.base + x.toNat :=
  withCells_fault_iff.trans (and_iff_right (Nat.succ_pos x.toNat))

end Sys2Proof.Machine
end

section
/-! The obligations about errors (R180 to R190, R211). -/

namespace Sys2Proof.Safety

open Sys2Proof Sys2Proof.Machine

/-- Settles O13: an instruction that does not complete raises, and an error keeps the state but for its own marks. -/
theorem errorsArePrecise : Obligations.ErrorsArePrecise := by
  intro i s r stops
  rcases exec_cases i s with ⟨t, completes, _⟩ | raises
  · exact absurd ⟨r, stops⟩ (not_fault_of_next completes)
  · exact raises

/-- Settles O14: six instructions have a condition for raising, the others complete from every state. -/
theorem errorsExactlyWhereListed : Obligations.ErrorsExactlyWhereListed := by
  intro i s
  cases i with
  | ret => simp [exec_ret_fault_iff]
  | call nnn => simp [exec_call_fault_iff]
  | draw x y n => simp [exec_draw_fault_iff]
  | storeBCD x => simp [exec_storeBCD_fault_iff]
  | storeRegI x => simp [exec_storeRegI_fault_iff]
  | loadRegI x => simp [exec_loadRegI_fault_iff]
  | clearScreen | jump | jumpAdd | skipEqualByte | skipNotEqualByte | skipEqualReg | skipNotEqualReg | skipKey
  | skipNotKey | loadByte | addByte | loadReg | or | and | xor | addReg | subReg | subN | shiftRight | shiftLeft
  | random | getDelay | waitKey | setDelay | setSound | loadI | addI | setISprite =>
    exact iff_of_false (not_fault_of_next rfl) (by simp)

/-- Settles O52. -/
theorem loadRejectsLongRom : Obligations.LoadRejectsLongRom := by
  intro rom s
  rcases State.load_cases rom s with ⟨short, accepted⟩ | ⟨long, rejected⟩
  · exact ⟨fun long => absurd short (Nat.not_le.mpr long), fun _ => ⟨_, accepted⟩⟩
  · exact ⟨fun _ => rejected, fun short => absurd short (Nat.not_le.mpr long)⟩

end Sys2Proof.Safety
end

section
/-! SUPPORT. Loading a ROM that fits (R212) on any core, and what a load that succeeds answers. -/

namespace Sys2Proof.Machine

open Sys2Proof

/-- The cells from `0x200` hold any ROM that fits. -/
theorem rom_inside {rom : List Byte} (fits : rom.length ≤ romMax) : progOrigin + rom.length ≤ memLast + 1 :=
  (Nat.add_le_add_left fits progOrigin).trans (by decide)

/-- A ROM that fits is copied. -/
theorem State.load_of_le {rom : List Byte} (s : State) (fits : rom.length ≤ romMax) :
    s.load rom =
      .ok { s with mem := s.mem.writeBytes progOrigin rom, pc := BitVec.ofNat 16 progOrigin, ready := true } := by
  rcases State.load_cases rom s with ⟨_, accepted⟩ | ⟨long, _⟩
  · exact accepted
  · exact absurd fits (Nat.not_le.mpr long)

/-- A load that succeeds copied a ROM that fits. -/
theorem State.load_ok {rom : List Byte} {s t : State} (h : s.load rom = .ok t) :
    rom.length ≤ romMax ∧
      t = { s with mem := s.mem.writeBytes progOrigin rom, pc := BitVec.ofNat 16 progOrigin, ready := true } := by
  rcases State.load_cases rom s with ⟨fits, accepted⟩ | ⟨_, rejected⟩
  · exact ⟨fits, Except.ok.inj (h.symm.trans accepted)⟩
  · exact nomatch h.symm.trans rejected

end Sys2Proof.Machine

namespace Sys2Proof.Safety

open Sys2Proof Sys2Proof.Machine

/-- A load that succeeds: its write to memory is inside the array, and `pc` is in its range. -/
theorem Inv.load {rom : List Byte} {s t : State} (h : Inv s) (loads : s.load rom = .ok t) : Inv t := by
  obtain ⟨fits, rfl⟩ := State.load_ok loads
  obtain ⟨mem, stack, sprites, directive, _⟩ := h
  have origin : (BitVec.ofNat 16 progOrigin).toNat ≤ 0x10FE := by decide
  exact ⟨Memory.wf_writeBytes rom s.mem progOrigin mem (rom_inside fits), stack, sprites, directive, origin⟩

end Sys2Proof.Safety
end

section
/-! The obligations about a load (R211 to R213). -/

namespace Sys2Proof.Safety

open Sys2Proof Sys2Proof.Machine

/-- Settles O53: the load writes the ROM into the cells from `0x200`, which are inside the array. -/
theorem loadCopiesRom : Obligations.LoadCopiesRom := fun _ s canonical fits =>
  ⟨_, s.load_of_le fits, fun _ => Memory.read_writeBytes_add canonical (rom_inside fits),
    fun _ => Memory.read_writeBytes_outside canonical (rom_inside fits), rfl, rfl, rfl⟩

/-- Settles O57. -/
theorem loadKeepsInvariant : Obligations.LoadKeepsInvariant := fun _ _ _ h loads => h.load loads

end Sys2Proof.Safety
end
